-- ==== Sys2Proof/Word.lean ====
section
/-! DEFINITION. The data words of the block: bytes and color indices (R10), RGB triples (R75), rows and image grids. -/

namespace Sys2Proof

/-- A byte: an unsigned 8-bit value, bit 7 the most significant (R10). -/
abbrev Byte := BitVec 8

/-- A color index 0..15 (R21, R22). -/
abbrev ColorIndex := BitVec 4

/-- One RGB triple of three 8-bit channels (R75). -/
structure Rgb where
  r : Byte
  g : Byte
  b : Byte
  deriving DecidableEq, Repr, Inhabited

/-- A 16-entry palette, indexed 0..15 (R75). -/
abbrev Palette := Vector Rgb 16

/-- One row of the row buffer: a list of color indices (R29; 352 of them, which `State.Inv` says). -/
abbrev Row := List ColorIndex

/-- One pixel of the encoder's input: its list of channels. A list, since R111 checks that there are three. -/
abbrev Pixel := List Byte

/-- One image row given to the encoder (R111, R113). -/
abbrev ImageRow := List Pixel

/-- The encoder's input grid `G`, of any shape: ENCODE checks it (R111). -/
abbrev Grid := List ImageRow

end Sys2Proof
end

