-- ==== Sys2Proof/Config.lean ====
section
/-! DEFINITION. The parameters of R8, each at the value the spec gives, and the values the spec leaves free (R9, R35):
opaque constants with no body, so that nothing can be proved of which value they take. -/

namespace Sys2Proof.Config

/-- `W`: display width in pixels (R8). -/
abbrev width : Nat := 352
/-- `ROW_CAP` (R8). -/
abbrev rowCap : Nat := 260
/-- `BRK_AT`: the row count at which the ascii-break trigger is recognised (R8). -/
abbrev brkAt : Nat := 212
/-- `BRK_CTRL` and `BRK_COL` as one header word (R8, R64). -/
abbrev brkHeader : BitVec 16 := 0x3088#16
/-- `TEXT_CTRL` (R8). -/
abbrev textCtrl : Byte := 0x7A#8
/-- `TEXT_COL` (R8). -/
abbrev textCol : Byte := 0x40#8
/-- `DIAG_PEEK` (R8). -/
abbrev diagPeek : Nat := 70
/-- `ENC_ROWS` (R8). -/
abbrev encRows : Nat := 256
/-- `ENC_CTRL` (R8). -/
abbrev encCtrl : Byte := 0xA0#8
/-- `ENC_COL` (R8). -/
abbrev encCol : Byte := 0x40#8
/-- `ENC_MASK` (R8). -/
abbrev encMask : Byte := 0xF0#8
/-- `TEXT_FIELD` (R8). -/
abbrev textField : Nat := 66
/-- `TEXT_LPAD` (R8). -/
abbrev textLpad : Nat := 4
/-- The byte of a space in a text line (R114, D32, G3). PRESUMED (the spec's G3 says it is general knowledge). -/
abbrev space : Byte := 0x20#8

/-- `CREG_RESET`: the color registers when the decoder state is created (R8, R35). -/
abbrev cregReset : Vector ColorIndex 4 := #v[1#4, 9#4, 12#4, 15#4]

/-- `PREVBG_RESET`: the free draw in 0..15 made at each BEGIN (R9, R105, D3, I9). Applied to the state's draw counter. -/
opaque prevBgReset : Nat → ColorIndex

/-- What `PREVBG` holds after a RESET: unspecified (R35, I10), a free draw. Applied to the state's draw counter. -/
opaque prevBgAfterReset : Nat → ColorIndex

/-- What `BRK_ROW` holds after RESET or BEGIN, while `BRK_VALID = 0`: unspecified in 0..260 (R24, R35, I11), a free draw. -/
opaque brkRowUnset : Nat → Fin 261

/-- `ADJUST`: the luminance-gradient adjustment, an OPEN function from palettes to palettes (R80, D12, I14). -/
opaque adjust : Palette → Palette

end Sys2Proof.Config
end

