-- ==== Sys2Proof/Machine/Serial.lean ====
section
/-! DEFINITION. The encoder's byte formats: quantizer (R112), RowChunk (R113) and TextLineChunk (R114). They are functions of
their operands alone, so both the instruction encoder (Decode.lean) and the ENCODE operation (Encoder.lean) use them. -/

namespace Sys2Proof.Machine

/-- The quantizer `Q(S)`: exact integer arithmetic, clipped to 0..15 (R112). -/
def quant (sum : Nat) : Nat := min 15 ((sum + 102) / 204)

/-- The sum of every channel sample of some pixels (R112). -/
def sampleSum (px : List Pixel) : Nat := (px.map fun q => (q.map BitVec.toNat).sum).sum

/-- The foreground index of block `j`: the left 4 pixels, quantized (R113). -/
def blockFg (g : ImageRow) (j : Nat) : ColorIndex :=
  BitVec.ofNat 4 (quant (sampleSum ((g.drop (8 * j)).take 4)))

/-- The background index of block `j`: the right 4 pixels, quantized (R113). -/
def blockBg (g : ImageRow) (j : Nat) : ColorIndex :=
  BitVec.ofNat 4 (quant (sampleSum ((g.drop (8 * j + 4)).take 4)))

/-- `RowChunk(g)`: the 90 bytes of one image row, in read order (R113, R116). -/
def rowChunk (g : ImageRow) : List Byte :=
  Config.encCtrl :: Config.encCol ::
    (List.range 44).flatMap fun j => [Config.encMask, blockFg g j ++ blockBg g j]

/-- The 66-byte field of a text line: 4 spaces, the line, spaces, cut to 66 (R114). -/
def lineField (t : List Byte) : List Byte :=
  (List.replicate Config.textLpad Config.space ++ t ++ List.replicate Config.textField Config.space).take Config.textField

/-- `TextLineChunk(t)`: the 134 bytes of one text line, in read order (R114, R70). -/
def textLineChunk (t : List Byte) : List Byte :=
  Config.textCtrl :: Config.textCol :: (lineField t).flatMap fun c => [c, 0x00#8]

end Sys2Proof.Machine
end

