-- ==== Sys2Proof/Syntax.lean ====
section
/-! DEFINITION. The instructions: one constructor per row of spec/opcode_table.json, with the operands the row's rule names.
`p` is a payload in payload order (R44). A bit of the header that is no operand is fixed by the row's mask and match. -/

namespace Sys2Proof

/-- A line record as the control-word parser has classified it (R65), or a record the encoder emits (R68). -/
inductive Instr where
  /-- UNKMODE.R0: unknown line mode, res 0 (R91). -/
  | unkmodeR0 (ctrl col : Byte)
  /-- UNKMODE.R1: unknown line mode, res 1 (R91). -/
  | unkmodeR1 (ctrl col : Byte)
  /-- UNKMODE.R2: unknown line mode, res 2 (R91). -/
  | unkmodeR2 (ctrl col : Byte)
  /-- TEXTMARK: text marker, control byte 0x7A (R92). -/
  | textmark (col : Byte) (p : List Byte)
  /-- BRKTRIG: ascii-break trigger, header 0x3088 (R93). -/
  | brktrig (p : List Byte)
  /-- BRKDUP: ascii-break trigger seen again, header 0x3088 (R94). -/
  | brkdup (p : List Byte)
  /-- GFX4: 4-color graphics (R95). -/
  | gfx4 (res : BitVec 2) (rep : BitVec 4) (en : Bool) (creg : BitVec 2) (csel : ColorIndex) (p : List Byte)
  /-- GFX16: 16-color graphics (R96). `en`, `creg` and `csel` are in the header and have no effect (R59). -/
  | gfx16 (res : BitVec 2) (rep : BitVec 4) (en : Bool) (creg : BitVec 2) (csel : ColorIndex) (p : List Byte)
  /-- SKIP00: benign skip, header 0x0000 (R97). -/
  | skip00 (p : List Byte)
  /-- SKIPFF: benign skip, header 0xFFFF (R97). -/
  | skipff (p : List Byte)
  /-- SKIPUNIT: benign skip, `nuc = 0` with the payload `[0x00, 0x00]` (R97). -/
  | skipunit (ctrl col : Byte)
  /-- UNREC: unrecognized combination (R99). -/
  | unrec (ctrl col : Byte) (p : List Byte)
  /-- ENC.ROW16: the record the encoder emits for the image row `g` (R113). -/
  | encRow16 (g : ImageRow)
  /-- ENC.TEXT: the record the encoder emits for the text line `t` (R114). -/
  | encText (t : List Byte)
  deriving DecidableEq, Repr

end Sys2Proof
end

