-- ==== Sys2Proof/Decode.lean ====
section
/-! DEFINITION. The control-word parser as a function: header fields (R55, R58), payload length (R60), the opcode map (R65),
`decode` from bytes in read order to an instruction or a named rejection, and then `encode`, the bytes of an instruction. -/

namespace Sys2Proof

/-- `disp = ctrl[7:6]` (R55). -/
def dispOf (ctrl : Byte) : BitVec 2 := ctrl.extractLsb' 6 2
/-- `res = ctrl[5:4]` (R55). -/
def resOf (ctrl : Byte) : BitVec 2 := ctrl.extractLsb' 4 2
/-- `rep = ctrl[3:0]` (R55). -/
def repOf (ctrl : Byte) : BitVec 4 := ctrl.extractLsb' 0 4
/-- `en = col[7]` (R58). -/
def enOf (col : Byte) : Bool := col.getLsbD 7
/-- `nuc = col[6]` (R58). -/
def nucOf (col : Byte) : Bool := col.getLsbD 6
/-- `creg = col[5:4]` (R58). -/
def cregOf (col : Byte) : BitVec 2 := col.extractLsb' 4 2
/-- `csel = col[3:0]` (R58). -/
def cselOf (col : Byte) : ColorIndex := col.extractLsb' 0 4

/-- The header word `H = (ctrl << 8) | col` (R64). -/
def headerWord (ctrl col : Byte) : BitVec 16 := ctrl ++ col

/-- `H & mask == match` (R64). -/
def hits (h mask key : BitVec 16) : Bool := h &&& mask == key

/-- `COLS(res)` (R56). -/
def cols (res : BitVec 2) : Nat :=
  if res = 0#2 then 88 else if res = 1#2 then 176 else if res = 2#2 then 352 else 528

/-- `PLEN(ctrl, col)`; `none` is UNKNOWN (R60). -/
def plen (ctrl col : Byte) : Option Nat :=
  if nucOf col = false then some 2
  else if dispOf ctrl = 0#2 ∨ dispOf ctrl = 2#2 then some (cols (resOf ctrl) / 8 * 2)
  else if (dispOf ctrl = 1#2 ∨ dispOf ctrl = 3#2) ∧ resOf ctrl = 3#2 then some 132
  else none

/-- What of the decoder state the opcode map's conditions read: `ROWS` and `BRK_VALID` (R65). -/
structure DispatchCtx where
  rows : Nat
  brkValid : Bool
  deriving DecidableEq, Repr

/-- BRKTRIG's condition: `ROWS == 212 and BRK_VALID == 0` (R65, R93). -/
def triggers (c : DispatchCtx) : Bool := c.rows == Config.brkAt && !c.brkValid

/-- The payload condition of SKIPUNIT: `p == [0x00, 0x00]` (R65). -/
def zeroPair (p : List Byte) : Bool := p == [0x00#8, 0x00#8]

/-- Stage L of the opcode map: the instruction of a header whose payload length is UNKNOWN (R65, R91). -/
def lengthStage (ctrl col : Byte) : Instr :=
  if hits (headerWord ctrl col) 0x7040#16 0x4040#16 then .unkmodeR0 ctrl col
  else if hits (headerWord ctrl col) 0x7040#16 0x5040#16 then .unkmodeR1 ctrl col
  else .unkmodeR2 ctrl col

/-- Stage D of the opcode map: the first kind, in the order of the priorities, whose match and condition hold (R64, R65). -/
def dispatchStage (c : DispatchCtx) (ctrl col : Byte) (p : List Byte) : Instr :=
  let h := headerWord ctrl col
  if hits h 0xFF00#16 0x7A00#16 then .textmark col p
  else if hits h 0xFFFF#16 Config.brkHeader && triggers c then .brktrig p
  else if hits h 0xFFFF#16 Config.brkHeader && c.brkValid then .brkdup p
  else if hits h 0xC040#16 0x0040#16 then
    .gfx4 (resOf ctrl) (repOf ctrl) (enOf col) (cregOf col) (cselOf col) p
  else if hits h 0xC040#16 0x8040#16 then
    .gfx16 (resOf ctrl) (repOf ctrl) (enOf col) (cregOf col) (cselOf col) p
  else if hits h 0xFFFF#16 0x0000#16 then .skip00 p
  else if hits h 0xFFFF#16 0xFFFF#16 then .skipff p
  else if hits h 0x0040#16 0x0000#16 && zeroPair p then .skipunit ctrl col
  else .unrec ctrl col p

/-- Why bytes hold no whole record (R122): the three places where too few bytes are left. -/
inductive DecodeError where
  /-- No byte at all: there is no control byte. -/
  | noControl
  /-- One byte only: there is no color byte (need 1, have 0). -/
  | noColor
  /-- The payload is cut short (need `PLEN`, have what is left). -/
  | shortPayload (need have_ : Nat)
  deriving DecidableEq, Repr

/-- Decode the record at the front of bytes in read order (R54, R90); the rest of the bytes comes back with it. -/
def decode (c : DispatchCtx) : List Byte → Except DecodeError (Instr × List Byte)
  | [] => .error .noControl
  | [_] => .error .noColor
  | ctrl :: col :: rest =>
    match plen ctrl col with
    | none => .ok (lengthStage ctrl col, rest)
    | some n =>
      if rest.length < n then .error (.shortPayload n rest.length)
      else .ok (dispatchStage c ctrl col (rest.take n), rest.drop n)

/-- The read-order bytes of a table word: the header word's two bytes, control first, then its payload bits, up to the longest
record (134 bytes, R54). Bits at and above `nbits` are 0. -/
def tableBytes (nbits w : Nat) : List Byte :=
  let v := w % 2 ^ nbits
  BitVec.ofNat 8 (v >>> 8) :: BitVec.ofNat 8 v ::
    (List.range 132).map fun k => BitVec.ofNat 8 (v >>> (16 + 8 * k))

/-- The dispatch context a table word is decoded in: BRKTRIG's own condition for the header 0x3088 (its first row of the map),
and the context of a fresh pass for every other word, on which no condition bears. DESIGN CHOICE: log entry 12. -/
def tableCtx (nbits w : Nat) : DispatchCtx :=
  if w % 2 ^ nbits % 2 ^ 16 = Config.brkHeader.toNat then ⟨Config.brkAt, false⟩ else ⟨0, false⟩

/-- The instruction the decoder reads from a row's bits (numbered as spec/opcode_table.json numbers them: H, bits 15..0). -/
def decodeTableWord (nbits w : Nat) : Option Instr :=
  match decode (tableCtx nbits w) (tableBytes nbits w) with
  | .ok (i, _) => some i
  | .error _ => none

/-- A control byte from its fields (R55). -/
def ctrlByte (disp res : BitVec 2) (rep : BitVec 4) : Byte := disp ++ res ++ rep

/-- A color byte from its fields (R58). -/
def colByte (en nuc : Bool) (creg : BitVec 2) (csel : ColorIndex) : Byte :=
  BitVec.ofBool en ++ BitVec.ofBool nuc ++ creg ++ csel

/-- The control byte of an instruction's record (R55, R68). -/
def ctrlOf : Instr → Byte
  | .unkmodeR0 ctrl _ => ctrl
  | .unkmodeR1 ctrl _ => ctrl
  | .unkmodeR2 ctrl _ => ctrl
  | .textmark _ _ => Config.textCtrl
  | .brktrig _ => 0x30#8
  | .brkdup _ => 0x30#8
  | .gfx4 res rep _ _ _ _ => ctrlByte 0#2 res rep
  | .gfx16 res rep _ _ _ _ => ctrlByte 2#2 res rep
  | .skip00 _ => 0x00#8
  | .skipff _ => 0xFF#8
  | .skipunit ctrl _ => ctrl
  | .unrec ctrl _ _ => ctrl
  | .encRow16 _ => Config.encCtrl
  | .encText _ => Config.textCtrl

/-- The color byte of an instruction's record (R58, R68). -/
def colOf : Instr → Byte
  | .unkmodeR0 _ col => col
  | .unkmodeR1 _ col => col
  | .unkmodeR2 _ col => col
  | .textmark col _ => col
  | .brktrig _ => 0x88#8
  | .brkdup _ => 0x88#8
  | .gfx4 _ _ en creg csel _ => colByte en true creg csel
  | .gfx16 _ _ en creg csel _ => colByte en true creg csel
  | .skip00 _ => 0x00#8
  | .skipff _ => 0xFF#8
  | .skipunit _ col => col
  | .unrec _ col _ => col
  | .encRow16 _ => Config.encCol
  | .encText _ => Config.textCol

/-- The payload of an instruction's record, in payload order (R44, R70). -/
def payloadOf : Instr → List Byte
  | .unkmodeR0 _ _ => []
  | .unkmodeR1 _ _ => []
  | .unkmodeR2 _ _ => []
  | .textmark _ p => p
  | .brktrig p => p
  | .brkdup p => p
  | .gfx4 _ _ _ _ _ p => p
  | .gfx16 _ _ _ _ _ p => p
  | .skip00 p => p
  | .skipff p => p
  | .skipunit _ _ => [0x00#8, 0x00#8]
  | .unrec _ _ p => p
  | .encRow16 g => (Machine.rowChunk g).drop 2
  | .encText t => (Machine.textLineChunk t).drop 2

/-- The bytes of an instruction in read order: control, color, payload (R54). -/
def encode (i : Instr) : List Byte := ctrlOf i :: colOf i :: payloadOf i

/-- The decoder's record behind an encoder record: ENC.ROW16 is read as GFX16, ENC.TEXT as TEXTMARK (R68). -/
def decodedAs : Instr → Instr
  | .encRow16 g => .gfx16 2#2 0#4 false 0#2 0#4 ((Machine.rowChunk g).drop 2)
  | .encText t => .textmark Config.textCol ((Machine.textLineChunk t).drop 2)
  | .unkmodeR0 ctrl col => .unkmodeR0 ctrl col
  | .unkmodeR1 ctrl col => .unkmodeR1 ctrl col
  | .unkmodeR2 ctrl col => .unkmodeR2 ctrl col
  | .textmark col p => .textmark col p
  | .brktrig p => .brktrig p
  | .brkdup p => .brkdup p
  | .gfx4 res rep en creg csel p => .gfx4 res rep en creg csel p
  | .gfx16 res rep en creg csel p => .gfx16 res rep en creg csel p
  | .skip00 p => .skip00 p
  | .skipff p => .skipff p
  | .skipunit ctrl col => .skipunit ctrl col
  | .unrec ctrl col p => .unrec ctrl col p

end Sys2Proof
end

