-- ==== Sys2Proof/Machine/State.lean ====
section
/-! DEFINITION. The machine's state as plain data, the reasons a step can stop, and the state at power-on (R136, R35). -/

namespace Sys2Proof.Machine

/-- Why a step stops with no next state. -/
inductive Fault where
  /-- `MemRead` was asked for an input byte at an address outside `0..L-1`, where R41 does not define it. Raised by the cursor
  (TAKE and PEEK) only, and only in a state outside `State.Inv`, which no run from reset reaches. Safe. -/
  | inputAddress
  deriving DecidableEq, Repr

/-- Why an instruction has no meaning. The spec's own refusals (R128) are answers to the host: see `RefuseReason`. -/
inductive Refusal where
  /-- The instruction has no meaning yet. Raised by an arm of `exec` alone, and by none in this model. Safe. -/
  | notModelled (mnemonic : String)
  deriving DecidableEq, Repr

/-- `STATUS` (R27). -/
inductive Status where
  | idle
  | running
  | done
  | fault
  deriving DecidableEq, Repr

/-- The stage of an UNKNOWN_LINE_MODE event (R123). -/
inductive Stage where
  | length
  | dispatch
  deriving DecidableEq, Repr

/-- An entry of the event log `EV`, with the info R120 lists for it. -/
inductive Event where
  /-- UNKNOWN_LINE_MODE, code 2 (R91, R99, R123). -/
  | unknownLineMode (stage : Stage) (t0 : Nat) (ctrl col : Byte) (diag : List Byte)
  /-- TEXT_OBSERVED, no code (R92). -/
  | textObserved (t0 : Nat) (cells : List Byte)
  /-- ASCII_BREAK_ALREADY_SET, code 4 (R94, R125). -/
  | asciiBreakAlreadySet (t0 rows : Nat)
  deriving DecidableEq, Repr

/-- `PALMODE` (R32). -/
inductive PalMode where
  | true16
  | gray4
  deriving DecidableEq, Repr

/-- `ENC_VARIANT` (R32). -/
inductive EncVariant where
  | fixedMask
  | hifi
  deriving DecidableEq, Repr

/-- The configuration inputs as the host supplies them (R32, R104). BEGIN latches the first two; ENCODE reads the others. -/
structure Inputs where
  palette16 : Palette
  palMode : PalMode
  encVariant : EncVariant
  colortPre : List Byte
  colortPost : List Byte
  deriving DecidableEq, Repr

/-- An overlay block `(pos, lines)`: `pos` in 0..256, and a list of text lines that is not empty (R115). -/
structure Overlay where
  pos : Fin 257
  first : List Byte
  more : List (List Byte)
  deriving DecidableEq, Repr

/-- What the host can ask of the block: the operations of R66, and supplying its configuration (R104, R137, R138). -/
inductive Request where
  /-- RESET (R103). -/
  | reset
  /-- LOAD (R82). -/
  | load (bytes : List Byte)
  /-- TAKE (R84). -/
  | take (n : Nat)
  /-- PEEK (R85). -/
  | peek (n : Nat)
  /-- REMAINING (R86). -/
  | remaining
  /-- ISEMPTY (R87). -/
  | isEmpty
  /-- BEGIN (R105). -/
  | beginPass (bytes : List Byte)
  /-- STEP (R106). -/
  | step
  /-- RUN (R108). -/
  | run (bytes : List Byte)
  /-- READOUT (R77). -/
  | readout
  /-- MAP (R76). -/
  | map (c : ColorIndex)
  /-- ENCODE (R111). -/
  | encode (g : Grid) (ov : List Overlay)
  /-- The host supplies `PALETTE16` (R137 step 1). -/
  | supplyPalette (p : Palette)
  /-- The host applies ADJUST to the `PALETTE16` it has supplied (R80). -/
  | adjustPalette
  /-- The host supplies `PALMODE` (R137 step 1). -/
  | supplyPalMode (m : PalMode)
  /-- The host supplies the encoder's configuration (R138). -/
  | supplyEncoder (v : EncVariant) (pre post : List Byte)
  deriving DecidableEq, Repr

/-- The reasons of a refused operation (R128). A refusal is an answer to the host; the block goes on. -/
inductive RefuseReason where
  | busy
  | tooLong
  | notDone
  | unmodelledConfig
  deriving DecidableEq, Repr

/-- The errors an operation hands back to the host without changing `STATUS` (R120: codes 1 and 5). -/
inductive HostError where
  /-- SHORT_BUFFER of a host TAKE (R84, R122). -/
  | shortBuffer (need have_ : Nat)
  /-- ENCODER_SHAPE (R127). -/
  | encoderShape (rows : Nat)
  deriving DecidableEq, Repr

/-- What an operation answers the host (the result column of R66). -/
inductive Reply where
  /-- The operation has no result ("-"). -/
  | ack
  /-- The bytes of TAKE, PEEK or ENCODE. -/
  | bytes (v : List Byte)
  /-- REMAINING's `T`. -/
  | count (n : Nat)
  /-- ISEMPTY's answer. -/
  | bool (b : Bool)
  /-- The `STATUS` that STEP and RUN return. -/
  | status (st : Status)
  /-- READOUT's grid `OUT`. -/
  | grid (out : List (List Rgb))
  /-- MAP's RGB triple. -/
  | rgb (c : Rgb)
  /-- The operation failed with an error (R122, R127). -/
  | error (e : HostError)
  /-- The operation was refused (R128). -/
  | refused (r : RefuseReason)
  deriving DecidableEq, Repr

/-- A byte-addressed space: its bytes, at strictly rising addresses; an address that is not listed does not exist (R41). -/
abbrev Memory := List Host.Cell

/-- The canonical form of a memory: strictly rising addresses. (An unlisted address reads as no value, so no entry can equal it.) -/
def Memory.wf (m : Memory) : Bool := decide (m.Pairwise fun a b => a.1 < b.1)

/-- The state of the block. -/
structure State where
  /-- `CREG[0..3]` (R21). -/
  creg : Vector ColorIndex 4
  /-- `PREVBG` (R22). -/
  prevBg : ColorIndex
  /-- `ROWS` (R23). -/
  rows : Nat
  /-- `BRK_VALID` (R24). -/
  brkValid : Bool
  /-- `BRK_ROW` (R24). -/
  brkRow : Nat
  /-- `B`, the input byte sequence (R26, R40). -/
  input : Memory
  /-- `L`, the length loaded (R26). -/
  len : Nat
  /-- `T`, the tail pointer: the bytes not yet taken (R26). -/
  tail : Nat
  /-- `STATUS` (R27). -/
  status : Status
  /-- `FAULT_CODE` (R28, R120). -/
  faultCode : BitVec 4
  /-- `FAULT_T0` (R28). -/
  faultT0 : Option Nat
  /-- `FAULT_CTRL` (R28). -/
  faultCtrl : Option Byte
  /-- `FAULT_COL` (R28). -/
  faultCol : Option Byte
  /-- `FAULT_NEED` (R28). -/
  faultNeed : Option Nat
  /-- `FAULT_HAVE` (R28). -/
  faultHave : Option Nat
  /-- `RB`, the row buffer (R29). -/
  rb : List Row
  /-- `EV`, the event log, oldest first (R31). -/
  ev : List Event
  /-- `PALETTE16` as latched at BEGIN (R32, R105). -/
  palette16 : Palette
  /-- `PALMODE` as latched at BEGIN (R32, R105). -/
  palMode : PalMode
  /-- The configuration inputs as last supplied by the host (R32, R104). -/
  inputs : Inputs
  /-- `BUF_CAP`: the largest input length, `none` for unbounded. Fixed for the machine: no step changes it (R9, D17). -/
  bufCap : Option Nat
  /-- `C`, the chunk sequence ENCODE is assembling, in read order (R118); empty between operations (R33). -/
  chunks : List Byte
  /-- `E`, the encoder output space (R40, R49). -/
  encOut : Memory
  /-- `T0`: the tail when the current record step began (R90). -/
  recT0 : Nat
  /-- The MODEL's own: how many times a free value has been drawn; the next draw is a constant of Config applied to it. -/
  draws : Nat
  /-- The MODEL's own: the operations the host has issued and the block has not yet begun, in issue order (R6, R51). -/
  pending : List Request
  /-- The MODEL's own: what the block has answered the host, oldest first (R66). -/
  replies : List Reply
  deriving DecidableEq, Repr

/-- Black, the value of every palette entry before the host supplies one. DESIGN CHOICE: log entry 3. -/
def blackPalette : Palette := Vector.replicate 16 ⟨0#8, 0#8, 0#8⟩

/-- The state at power-on, before the first operation: RESET's state with `B = []` and `L = T = 0` (R136, R35). -/
def State.reset : State where
  creg := Config.cregReset
  prevBg := 0#4
  rows := 0
  brkValid := false
  brkRow := 0
  input := []
  len := 0
  tail := 0
  status := .idle
  faultCode := 0#4
  faultT0 := none
  faultCtrl := none
  faultCol := none
  faultNeed := none
  faultHave := none
  rb := []
  ev := []
  palette16 := blackPalette
  palMode := .true16
  inputs := ⟨blackPalette, .true16, .fixedMask, [], []⟩
  bufCap := none
  chunks := []
  encOut := []
  recT0 := 0
  draws := 0
  pending := []
  replies := []

/-- What the opcode map's conditions read of a state (R65). -/
def State.ctx (s : State) : DispatchCtx := ⟨s.rows, s.brkValid⟩

end Sys2Proof.Machine
end

