-- ==== Sys2Proof/Machine/Flags.lean ====
section
/-! DEFINITION. The block has no condition codes. Its two flag-like pieces of state are `BRK_VALID` and `STATUS` (R25): this
file says what sets them and what they suppress. -/

namespace Sys2Proof.Machine

/-- Record the ascii break: `BRK_VALID <- 1`, `BRK_ROW <- ROWS` (R93, R24). -/
def setBreak (s : State) : State := { s with brkValid := true, brkRow := s.rows }

/-- A GFX4 record's register write happens: `en == 1 and BRK_VALID == 0` (R95, R144). -/
def cregWriteOn (en : Bool) (s : State) : Bool := en && !s.brkValid

/-- Only a running pass is busy: LOAD and a host TAKE are refused (R82, R88). -/
def isBusy (s : State) : Bool := s.status == .running

/-- `STATUS <- st` (R27). -/
def setStatus (st : Status) (s : State) : State := { s with status := st }

/-- The pass is over at the loop test: the cursor is empty or the row cap is reached (R106). -/
def passOver (s : State) : Bool := s.tail == 0 || decide (Config.rowCap ≤ s.rows)

end Sys2Proof.Machine
end

