-- ==== Sys2Proof/Machine/Ops.lean ====
section
/-! DEFINITION. The named operations over the storage spaces and registers: input memory (R41), the cursor's TAKE and PEEK (R84,
R85), color registers (R21), the row buffer (R100), the event log (R31), fault entry and the way out of it (R126, R130). -/

namespace Sys2Proof.Machine

/-! ### Memory -/

/-- The memory that holds `bytes` from address `a` on, lowest address first. -/
def Memory.ofBytesFrom : Nat → List Byte → Memory
  | _, [] => []
  | a, v :: bytes => (a, v) :: Memory.ofBytesFrom (a + 1) bytes

/-- The memory that holds `bytes` at addresses 0, 1, … (R40, R82). -/
def Memory.ofBytes (bytes : List Byte) : Memory := Memory.ofBytesFrom 0 bytes

/-- The byte at an address; an unlisted address holds none (R41). -/
def Memory.read : Memory → Nat → Option Byte
  | [], _ => none
  | (k, v) :: m, a => if k = a then some v else Memory.read m a

/-- The `n` bytes at addresses `a..a+n-1`, lowest address first (R41). -/
def Memory.readRange (m : Memory) (a : Nat) : Nat → Option (List Byte)
  | 0 => some []
  | n + 1 =>
    match Memory.read m a, Memory.readRange m (a + 1) n with
    | some v, some vs => some (v :: vs)
    | _, _ => none

/-- `MemRead(a, n)`: defined only when `a + n ≤ L` (R41). -/
def memRead (s : State) (a n : Nat) : Option (List Byte) :=
  if a + n ≤ s.len then s.input.readRange a n else none

/-! ### The cursor's core operations -/

/-- What a TAKE can come to. -/
inductive TakeResult where
  /-- The bytes taken, in memory order, and the state with `T` lowered. -/
  | taken (v : List Byte) (s : State)
  /-- ShortBuffer: fewer than `need` bytes remain, and nothing is consumed (R84). -/
  | short (need have_ : Nat)
  /-- The input holds no byte where the cursor points (no state of a run: see `Fault.inputAddress`). -/
  | missing
  deriving DecidableEq, Repr

/-- `T <- n` (R26). -/
def setTail (n : Nat) (s : State) : State := { s with tail := n }

/-- `TAKE(n)` (R84). -/
def takeBytes (n : Nat) (s : State) : TakeResult :=
  if s.tail < n then .short n s.tail
  else
    match memRead s (s.tail - n) n with
    | some v => .taken v (setTail (s.tail - n) s)
    | none => .missing

/-- `PEEK(n)`: the last `min(n, T)` bytes, in memory order (R85). -/
def peekBytes (n : Nat) (s : State) : Option (List Byte) :=
  memRead s (s.tail - min n s.tail) (min n s.tail)

/-- The input becomes `bytes`, the cursor at its end: `B <- bytes; L <- len(bytes); T <- L` (R82, R105). -/
def loadInput (bytes : List Byte) (s : State) : State :=
  { s with input := Memory.ofBytes bytes, len := bytes.length, tail := bytes.length }

/-- The input is not longer than `BUF_CAP` (R82, D17). -/
def fits (s : State) (bytes : List Byte) : Bool :=
  match s.bufCap with
  | none => true
  | some cap => decide (bytes.length ≤ cap)

/-! ### Registers, row buffer, event log -/

/-- `CREG[i]` (R21). -/
def cregRead (creg : Vector ColorIndex 4) (i : BitVec 2) : ColorIndex := creg.get i.toFin

/-- `CREG[i] <- v` (R21). -/
def cregWrite (i : BitVec 2) (v : ColorIndex) (s : State) : State := { s with creg := s.creg.set i.toNat v i.isLt }

/-- `PREVBG <- v` (R22). -/
def setPrevBg (v : ColorIndex) (s : State) : State := { s with prevBg := v }

/-- How many copies of a row the cap lets in: `min(k, ROW_CAP - ROWS)` (R100). -/
def copies (k : Nat) (s : State) : Nat := min k (Config.rowCap - s.rows)

/-- `AppendRows(row, k)` with the row cap (R100). -/
def appendRows (row : Row) (k : Nat) (s : State) : State :=
  { s with rb := s.rb ++ List.replicate (copies k s) row, rows := s.rows + copies k s }

/-- `emit V(info)`: append an event to `EV` (R12, R31). -/
def emit (e : Event) (s : State) : State := { s with ev := s.ev ++ [e] }

/-! ### Faults (R120, R126, R130) -/

/-- SHORT_BUFFER's code (R120). -/
def codeShortBuffer : BitVec 4 := 1#4
/-- UNKNOWN_LINE_MODE's code (R120). -/
def codeUnknownLineMode : BitVec 4 := 2#4
/-- ROW_WIDTH_MISMATCH's code (R120). -/
def codeRowWidthMismatch : BitVec 4 := 3#4
/-- ASCII_BREAK_ALREADY_SET's code (R120). -/
def codeAsciiBreakAlreadySet : BitVec 4 := 4#4
/-- ENCODER_SHAPE's code (R120). -/
def codeEncoderShape : BitVec 4 := 5#4

/-- The code an event goes to `EV` with; TEXT_OBSERVED has none (R120). -/
def eventCode : Event → Option (BitVec 4)
  | .unknownLineMode _ _ _ _ _ => some codeUnknownLineMode
  | .textObserved _ _ => none
  | .asciiBreakAlreadySet _ _ => some codeAsciiBreakAlreadySet

/-- The code an error is handed to the host with (R120). -/
def errorCode : HostError → BitVec 4
  | .shortBuffer _ _ => codeShortBuffer
  | .encoderShape _ => codeEncoderShape

/-- Fault entry: a fatal code is raised during a record step (R126). -/
def enterFault (code : BitVec 4) (ctrl col : Option Byte) (need have_ : Nat) (s : State) : State :=
  { s with
    status := .fault
    faultCode := code
    faultT0 := some s.recT0
    faultCtrl := ctrl
    faultCol := col
    faultNeed := some need
    faultHave := some have_ }

/-- The way out of a fault, which only RESET and BEGIN take: `FAULT_CODE <- 0; FAULT_* <- none` (R103, R105, R130). -/
def leaveFault (s : State) : State :=
  { s with faultCode := 0#4, faultT0 := none, faultCtrl := none, faultCol := none, faultNeed := none, faultHave := none }

/-! ### Requests and answers -/

/-- The operations still to be begun (R6). -/
def setPending (q : List Request) (s : State) : State := { s with pending := q }

/-- Answer the host. -/
def answer (r : Reply) (s : State) : State := { s with replies := s.replies ++ [r] }

/-- Go on from a next state; a stop stays a stop. -/
def andThen (o : Host.Outcome State Fault Refusal) (f : State → Host.Outcome State Fault Refusal) :
    Host.Outcome State Fault Refusal :=
  match o with
  | .next s => f s
  | .fault r => .fault r
  | .refused r => .refused r

end Sys2Proof.Machine
end

