-- ==== Sys2Proof/Machine/Cursor.lean ====
section
/-! DEFINITION. The host's cursor operations: LOAD (R82), TAKE (R84, R88), PEEK (R85), REMAINING (R86), ISEMPTY (R87). -/

namespace Sys2Proof.Machine

/-- LOAD: refused while RUNNING, and when the input is longer than `BUF_CAP` (R82). -/
def opLoad (bytes : List Byte) (s : State) : Host.Outcome State Fault Refusal :=
  if isBusy s then .next (answer (.refused .busy) s)
  else if fits s bytes then .next (answer .ack (loadInput bytes s))
  else .next (answer (.refused .tooLong) s)

/-- A host TAKE: refused while RUNNING; ShortBuffer is handed back and `STATUS` does not change (R84, R88, R122). -/
def opTake (n : Nat) (s : State) : Host.Outcome State Fault Refusal :=
  if isBusy s then .next (answer (.refused .busy) s)
  else
    match takeBytes n s with
    | .taken v s1 => .next (answer (.bytes v) s1)
    | .short need have_ => .next (answer (.error (.shortBuffer need have_)) s)
    | .missing => .fault .inputAddress

/-- PEEK (R85). -/
def opPeek (n : Nat) (s : State) : Host.Outcome State Fault Refusal :=
  match peekBytes n s with
  | some v => .next (answer (.bytes v) s)
  | none => .fault .inputAddress

/-- REMAINING (R86). -/
def opRemaining (s : State) : Host.Outcome State Fault Refusal := .next (answer (.count s.tail) s)

/-- ISEMPTY (R87). -/
def opIsEmpty (s : State) : Host.Outcome State Fault Refusal := .next (answer (.bool (s.tail == 0)) s)

end Sys2Proof.Machine
end

