-- ==== Sys2Proof/Machine/Encoder.lean ====
section
/-! DEFINITION. The framebuffer encoder: the records ENC.ROW16 (R113) and ENC.TEXT (R114), overlay blocks (R115), the assembly
(R118) and ENCODE (R111). The chunk sequence `C` of R118 is built up in the state and is empty again when ENCODE returns (R33). -/

namespace Sys2Proof.Machine

/-- `C <- C ++ bytes` (R118). -/
def addChunk (bytes : List Byte) (s : State) : State := { s with chunks := s.chunks ++ bytes }

/-- `C <- []` (R118). -/
def clearChunks (s : State) : State := { s with chunks := [] }

/-- `E <- bytes`, written whole (R40, R49). -/
def setOutput (bytes : List Byte) (s : State) : State := { s with encOut := Memory.ofBytes bytes }

/-- ENC.ROW16: the encoder emits the chunk of one image row (R113, R118). -/
def execEncRow16 (g : ImageRow) (s : State) : Host.Outcome State Fault Refusal := .next (addChunk (rowChunk g) s)

/-- ENC.TEXT: the encoder emits the chunk of one text line (R114, R115). -/
def execEncText (t : List Byte) (s : State) : Host.Outcome State Fault Refusal := .next (addChunk (textLineChunk t) s)

/-- One item of the assembly: a record, or an opaque `COLORT` byte string (R68, R115). -/
inductive EncItem where
  | row (g : ImageRow)
  | text (t : List Byte)
  | raw (bytes : List Byte)
  deriving DecidableEq, Repr

/-- Emit one item. -/
def emitItem (i : EncItem) (s : State) : Host.Outcome State Fault Refusal :=
  match i with
  | .row g => execEncRow16 g s
  | .text t => execEncText t s
  | .raw bytes => .next (addChunk bytes s)

/-- Emit items in order. -/
def emitItems : List EncItem → State → Host.Outcome State Fault Refusal
  | [], s => .next s
  | i :: is, s => andThen (emitItem i s) (emitItems is)

/-- An overlay block: `COLORT_PRE`, its text lines, `COLORT_POST` (R115). -/
def blockItems (pre post : List Byte) (o : Overlay) : List EncItem :=
  .raw pre :: ((o.first :: o.more).map EncItem.text ++ [.raw post])

/-- The blocks that go just before image row `r` (after row 255 when `r = 256`), in list order (R115, R118). -/
def blocksAt (pre post : List Byte) (ov : List Overlay) (r : Nat) : List EncItem :=
  (ov.filter fun o => o.pos.val == r).flatMap (blockItems pre post)

/-- The items from position `r` on: the blocks at `r`, then the image row at `r`, and so on; after the last row, its blocks. -/
def itemsFrom (pre post : List Byte) (ov : List Overlay) : Nat → Grid → List EncItem
  | r, [] => blocksAt pre post ov r
  | r, g :: gs => blocksAt pre post ov r ++ .row g :: itemsFrom pre post ov (r + 1) gs

/-- The grid is exactly 256 × 352 × 3 (R111). -/
def gridOk (g : Grid) : Bool :=
  g.length == Config.encRows && g.all fun row => row.length == Config.width && row.all fun q => q.length == 3

/-- The end of ENCODE: `E = reverse(C)` is written whole and answered, and nothing of `C` is kept (R49, R118, R33). -/
def deliver (s : State) : State :=
  answer (.bytes s.chunks.reverse) (clearChunks (setOutput s.chunks.reverse s))

/-- ENCODE (R111, R117, R127). -/
def opEncode (g : Grid) (ov : List Overlay) (s : State) : Host.Outcome State Fault Refusal :=
  match s.inputs.encVariant with
  | .hifi => .next (answer (.refused .unmodelledConfig) s)
  | .fixedMask =>
    if gridOk g then
      andThen (emitItems (itemsFrom s.inputs.colortPre s.inputs.colortPost ov 0 g) (clearChunks s))
        fun s1 => .next (deliver s1)
    else .next (answer (.error (.encoderShape g.length)) s)

end Sys2Proof.Machine
end

