-- ==== Sys2Proof/Machine/Operands.lean ====
section
/-! DEFINITION. Operand assembly (R63) and the pixel multiplier (R56): every way a record's payload is read. -/

namespace Sys2Proof.Machine

/-- `bit(v, i)` (R10). -/
def bit (v : Byte) (i : Nat) : Bool := v.getLsbD i

/-- The bit positions of a pair's 8 pixels, left to right: 7 down to 0 (R63). -/
def bitOrder : List Nat := [7, 6, 5, 4, 3, 2, 1, 0]

/-- `MULT(res)`; `none` at res 3 (R56). -/
def mult (res : BitVec 2) : Option Nat :=
  if res = 0#2 then some 4 else if res = 1#2 then some 2 else if res = 2#2 then some 1 else none

/-- GFX4's 2-bit pixel value `idx = bit(lo, b) | (bit(hi, b) << 1)` (R63, R95). -/
def gfx4Index (hi lo : Byte) (b : Nat) : BitVec 2 := BitVec.ofBool (bit hi b) ++ BitVec.ofBool (bit lo b)

/-- GFX16's foreground `lo[7:4]` (R63). -/
def fgOf (lo : Byte) : ColorIndex := lo.extractLsb' 4 4

/-- GFX16's background `lo[3:0]` (R63). -/
def bgOf (lo : Byte) : ColorIndex := lo.extractLsb' 0 4

/-- The text cells of a payload: its bytes at even offsets (R63, R92). -/
def cellsOf : List Byte → List Byte
  | [] => []
  | [c] => [c]
  | c :: _ :: p => c :: cellsOf p

end Sys2Proof.Machine
end

