-- ==== Sys2Proof/Machine/Graphics.lean ====
section
/-! DEFINITION. The records that append rows: GFX4 (R95) and GFX16 (R96), with CheckWidth (R98) and the line-repeat expander's
AppendRows (R100). -/

namespace Sys2Proof.Machine

/-- The pixels of one GFX4 pair: bits 7 down to 0, each the color register its 2-bit value selects, `m` times (R95). -/
def gfx4Pair (creg : Vector ColorIndex 4) (m : Nat) (hi lo : Byte) : Row :=
  bitOrder.flatMap fun b => List.replicate m (cregRead creg (gfx4Index hi lo b))

/-- The row of a GFX4 payload, pair by pair (R95). -/
def gfx4Row (creg : Vector ColorIndex 4) (m : Nat) : List Byte → Row
  | [] => []
  | [_] => []
  | hi :: lo :: p => gfx4Pair creg m hi lo ++ gfx4Row creg m p

/-- `PREVBG` after the pixel at bit `b` of a GFX16 pair: `bg` after a 1-bit, unchanged after a 0-bit (R96). -/
def prevAfterBit (hi : Byte) (bg : ColorIndex) (prev : ColorIndex) (b : Nat) : ColorIndex := if bit hi b then bg else prev

/-- `PREVBG` after all 8 pixels of a GFX16 pair (R96). -/
def prevAfterPair (hi lo : Byte) (prev : ColorIndex) : ColorIndex := bitOrder.foldl (prevAfterBit hi (bgOf lo)) prev

/-- The pixels of a GFX16 pair at the given bit positions, in order: `fg` at a 1-bit, the carried `PREVBG` at a 0-bit, each `m`
times; each pixel's update of `PREVBG` is seen by the next (R96, R143). -/
def gfx16Bits (m : Nat) (hi lo : Byte) : ColorIndex → List Nat → Row
  | _, [] => []
  | prev, b :: bs =>
    List.replicate m (if bit hi b then fgOf lo else prev) ++ gfx16Bits m hi lo (prevAfterBit hi (bgOf lo) prev b) bs

/-- The row of a GFX16 payload, pair by pair, from the `PREVBG` the record starts with (R96). -/
def gfx16Row (m : Nat) : ColorIndex → List Byte → Row
  | _, [] => []
  | _, [_] => []
  | prev, hi :: lo :: p => gfx16Bits m hi lo prev bitOrder ++ gfx16Row m (prevAfterPair hi lo prev) p

/-- `PREVBG` after a GFX16 payload (R96). -/
def prevAfterRow : ColorIndex → List Byte → ColorIndex
  | prev, [] => prev
  | prev, [_] => prev
  | prev, hi :: lo :: p => prevAfterRow (prevAfterPair hi lo prev) p

/-- CheckWidth and AppendRows: a row that is not `W` wide raises RowWidthMismatch, another is appended `rep + 1` times (R98,
R100). -/
def finishRow (ctrl col : Byte) (rep : BitVec 4) (row : Row) (s : State) : Host.Outcome State Fault Refusal :=
  if row.length = Config.width then .next (appendRows row (rep.toNat + 1) s)
  else .next (enterFault codeRowWidthMismatch (some ctrl) (some col) Config.width row.length s)

/-- A graphics record at a resolution with no multiplier raises RowWidthMismatch before any write (R98). -/
def noMultiplier (ctrl col : Byte) (res : BitVec 2) (s : State) : Host.Outcome State Fault Refusal :=
  .next (enterFault codeRowWidthMismatch (some ctrl) (some col) Config.width (cols res) s)

/-- GFX4 (R95): the register write comes before the expansion (R143), and a recorded break suppresses it (R144). -/
def execGfx4 (res : BitVec 2) (rep : BitVec 4) (en : Bool) (creg : BitVec 2) (csel : ColorIndex) (p : List Byte) (s : State) :
    Host.Outcome State Fault Refusal :=
  match mult res with
  | none => noMultiplier (ctrlByte 0#2 res rep) (colByte en true creg csel) res s
  | some m =>
    let s1 := if cregWriteOn en s then cregWrite creg csel s else s
    finishRow (ctrlByte 0#2 res rep) (colByte en true creg csel) rep (gfx4Row s1.creg m p) s1

/-- GFX16 (R96): `en`, `creg` and `csel` only name the color byte that a fault would report (R59). -/
def execGfx16 (res : BitVec 2) (rep : BitVec 4) (en : Bool) (creg : BitVec 2) (csel : ColorIndex) (p : List Byte) (s : State) :
    Host.Outcome State Fault Refusal :=
  match mult res with
  | none => noMultiplier (ctrlByte 2#2 res rep) (colByte en true creg csel) res s
  | some m =>
    finishRow (ctrlByte 2#2 res rep) (colByte en true creg csel) rep (gfx16Row m s.prevBg p)
      (setPrevBg (prevAfterRow s.prevBg p) s)

end Sys2Proof.Machine
end

