-- ==== Sys2Proof/Machine/Markers.lean ====
section
/-! DEFINITION. The records that append no row: UNKMODE.R0 to R2 (R91), TEXTMARK (R92), BRKTRIG (R93), BRKDUP (R94), the benign
skips (R97) and UNREC (R99). A meaning starts where R90 dispatches: the header and the payload are taken and `T0` is latched. -/

namespace Sys2Proof.Machine

/-- UNKMODE: the event of the length stage, with `PEEK(DIAG_PEEK)` as its diagnostic (R91, R123). -/
def unknownMode (ctrl col : Byte) (s : State) : Host.Outcome State Fault Refusal :=
  match peekBytes Config.diagPeek s with
  | some diag => .next (emit (.unknownLineMode .length s.recT0 ctrl col diag) s)
  | none => .fault .inputAddress

/-- UNKMODE.R0 (R91). -/
def execUnkmodeR0 (ctrl col : Byte) (s : State) : Host.Outcome State Fault Refusal := unknownMode ctrl col s

/-- UNKMODE.R1 (R91). -/
def execUnkmodeR1 (ctrl col : Byte) (s : State) : Host.Outcome State Fault Refusal := unknownMode ctrl col s

/-- UNKMODE.R2 (R91). -/
def execUnkmodeR2 (ctrl col : Byte) (s : State) : Host.Outcome State Fault Refusal := unknownMode ctrl col s

/-- TEXTMARK: surface the text cells; no rows, and `en`, `rep` and `BRK_VALID` have no effect (R92). -/
def execTextmark (p : List Byte) (s : State) : Host.Outcome State Fault Refusal :=
  .next (emit (.textObserved s.recT0 (cellsOf p)) s)

/-- BRKTRIG: record the break; the payload is ignored and the record's own register write is not performed (R93). -/
def execBrktrig (s : State) : Host.Outcome State Fault Refusal := .next (setBreak s)

/-- BRKDUP: the duplicate trigger is a no-op that is logged (R94, R125). -/
def execBrkdup (s : State) : Host.Outcome State Fault Refusal :=
  .next (emit (.asciiBreakAlreadySet s.recT0 s.rows) s)

/-- SKIP00: nothing, whatever the payload (R97). -/
def execSkip00 (s : State) : Host.Outcome State Fault Refusal := .next s

/-- SKIPFF: nothing, whatever the payload (R97). -/
def execSkipff (s : State) : Host.Outcome State Fault Refusal := .next s

/-- SKIPUNIT: nothing (R97). -/
def execSkipunit (s : State) : Host.Outcome State Fault Refusal := .next s

/-- UNREC: the event of the dispatch stage, with the payload as its diagnostic (R99, R123). -/
def execUnrec (ctrl col : Byte) (p : List Byte) (s : State) : Host.Outcome State Fault Refusal :=
  .next (emit (.unknownLineMode .dispatch s.recT0 ctrl col p) s)

end Sys2Proof.Machine
end

