-- ==== Sys2Proof/Machine/Dispatch.lean ====
section
/-! DEFINITION. The dispatch: one arm per instruction, each one call of its meaning. -/

namespace Sys2Proof.Machine

def exec (i : Instr) (s : State) : Host.Outcome State Fault Refusal :=
  match i with
  | .unkmodeR0 ctrl col => Sys2Proof.Machine.execUnkmodeR0 ctrl col s
  | .unkmodeR1 ctrl col => Sys2Proof.Machine.execUnkmodeR1 ctrl col s
  | .unkmodeR2 ctrl col => Sys2Proof.Machine.execUnkmodeR2 ctrl col s
  | .textmark _ p => Sys2Proof.Machine.execTextmark p s
  | .brktrig _ => Sys2Proof.Machine.execBrktrig s
  | .brkdup _ => Sys2Proof.Machine.execBrkdup s
  | .gfx4 res rep en creg csel p => Sys2Proof.Machine.execGfx4 res rep en creg csel p s
  | .gfx16 res rep en creg csel p => Sys2Proof.Machine.execGfx16 res rep en creg csel p s
  | .skip00 _ => Sys2Proof.Machine.execSkip00 s
  | .skipff _ => Sys2Proof.Machine.execSkipff s
  | .skipunit _ _ => Sys2Proof.Machine.execSkipunit s
  | .unrec ctrl col p => Sys2Proof.Machine.execUnrec ctrl col p s
  | .encRow16 g => Sys2Proof.Machine.execEncRow16 g s
  | .encText t => Sys2Proof.Machine.execEncText t s

end Sys2Proof.Machine
end

