-- ==== Sys2Proof/Machine/PaletteMapper.lean ====
section
/-! DEFINITION. The palette mapper: MAP (R76), READOUT (R77), the grayscale table (R78, R79), and the host's supply of the
configuration with ADJUST (R80, R104, R137, R138). -/

namespace Sys2Proof.Machine

/-- `PALETTE16[c]` (R76). -/
def mapColor (p : Palette) (c : ColorIndex) : Rgb := p.get c.toFin

/-- `OUT[r][c] = MAP(RB[r][c])` (R30, R77). -/
def outGrid (s : State) : List (List Rgb) := s.rb.map fun row => row.map (mapColor s.palette16)

/-- `GRAY4[i] = (85·i, 85·i, 85·i)` (R78). No operation reads it: the grayscale mode is refused (R79). -/
def gray4 (i : BitVec 2) : Rgb :=
  ⟨BitVec.ofNat 8 (85 * i.toNat), BitVec.ofNat 8 (85 * i.toNat), BitVec.ofNat 8 (85 * i.toNat)⟩

/-- MAP (R76). -/
def opMap (c : ColorIndex) (s : State) : Host.Outcome State Fault Refusal :=
  .next (answer (.rgb (mapColor s.palette16 c)) s)

/-- READOUT: refused unless DONE, and in the grayscale mode (R77, R79). -/
def opReadout (s : State) : Host.Outcome State Fault Refusal :=
  match s.status with
  | .idle => .next (answer (.refused .notDone) s)
  | .running => .next (answer (.refused .notDone) s)
  | .fault => .next (answer (.refused .notDone) s)
  | .done =>
    match s.palMode with
    | .gray4 => .next (answer (.refused .unmodelledConfig) s)
    | .true16 => .next (answer (.grid (outGrid s)) s)

/-- The host's configuration inputs change; what BEGIN has latched does not (R32, R145). -/
def supply (f : Inputs) (s : State) : State := { s with inputs := f }

/-- The host supplies `PALETTE16` (R137). -/
def opSupplyPalette (p : Palette) (s : State) : Host.Outcome State Fault Refusal :=
  .next (answer .ack (supply { s.inputs with palette16 := p } s))

/-- The host applies ADJUST to the palette it has supplied (R80). -/
def opAdjustPalette (s : State) : Host.Outcome State Fault Refusal :=
  .next (answer .ack (supply { s.inputs with palette16 := Config.adjust s.inputs.palette16 } s))

/-- The host supplies `PALMODE` (R137). -/
def opSupplyPalMode (m : PalMode) (s : State) : Host.Outcome State Fault Refusal :=
  .next (answer .ack (supply { s.inputs with palMode := m } s))

/-- The host supplies `ENC_VARIANT`, `COLORT_PRE` and `COLORT_POST` (R138). -/
def opSupplyEncoder (v : EncVariant) (pre post : List Byte) (s : State) : Host.Outcome State Fault Refusal :=
  .next (answer .ack (supply { s.inputs with encVariant := v, colortPre := pre, colortPost := post } s))

end Sys2Proof.Machine
end

