-- ==== Sys2Proof/Machine/Driver.lean ====
section
/-! DEFINITION. Pass control: RESET (R103), BEGIN (R105), the record step (R90), FINISH (R107), STEP (R106), RUN (R108), and the
choice of the operation a host request asks for (R66). -/

namespace Sys2Proof.Machine

/-- The decoder state as both RESET and BEGIN create it (R103, R105). `BRK_ROW` is unspecified while `BRK_VALID = 0` (R35). -/
def freshDecoder (s : State) : State :=
  { s with
    creg := Config.cregReset
    rows := 0
    brkValid := false
    brkRow := (Config.brkRowUnset s.draws).val
    rb := []
    ev := [] }

/-- RESET's effect (R103, R35): `B`, `L`, `T` and the configuration are unchanged; `PREVBG` is unspecified afterwards (I10). -/
def resetBlock (s : State) : State :=
  { leaveFault (freshDecoder s) with
    prevBg := Config.prevBgAfterReset s.draws
    status := .idle
    draws := s.draws + 1 }

/-- BEGIN's effect on an input that fits (R105): the free draw `PREVBG_RESET`, the configuration latched, RUNNING. -/
def beginBlock (bytes : List Byte) (s : State) : State :=
  { leaveFault (freshDecoder (loadInput bytes s)) with
    prevBg := Config.prevBgReset s.draws
    palette16 := s.inputs.palette16
    palMode := s.inputs.palMode
    status := .running
    draws := s.draws + 1 }

/-- FINISH: rotate the rows if a break was recorded, then DONE (R107). -/
def finish (s : State) : State :=
  { s with
    rb := if s.brkValid then s.rb.drop s.brkRow ++ s.rb.take s.brkRow else s.rb
    status := .done }

/-- The record step once both header bytes are taken: payload length, payload, dispatch (R90). -/
def recordBody (ctrl col : Byte) (s : State) : Host.Outcome State Fault Refusal :=
  match plen ctrl col with
  | none => exec (lengthStage ctrl col) s
  | some n =>
    match takeBytes n s with
    | .taken v s1 => exec (dispatchStage s1.ctx ctrl col v.reverse) s1
    | .short need have_ => .next (enterFault codeShortBuffer (some ctrl) (some col) need have_ s)
    | .missing => .fault .inputAddress

/-- The record step once the control byte is taken: the color byte (R90). -/
def recordColor (ctrl : Byte) (s : State) : Host.Outcome State Fault Refusal :=
  match takeBytes 1 s with
  | .taken v s1 => recordBody ctrl (v.headD 0#8) s1
  | .short need have_ => .next (enterFault codeShortBuffer (some ctrl) none need have_ s)
  | .missing => .fault .inputAddress

/-- `T0 <- T` (R90). -/
def latchT0 (s : State) : State := { s with recT0 := s.tail }

/-- `RecordStep()` (R90). -/
def recordStep (s : State) : Host.Outcome State Fault Refusal :=
  match takeBytes 1 (latchT0 s) with
  | .taken v s1 => recordColor (v.headD 0#8) s1
  | .short need have_ => .next (enterFault codeShortBuffer none none need have_ (latchT0 s))
  | .missing => .fault .inputAddress

/-- `STEP()` (R106). -/
def driverStep (s : State) : Host.Outcome State Fault Refusal :=
  match s.status with
  | .idle => .next s
  | .done => .next s
  | .fault => .next s
  | .running => if passOver s then .next (finish s) else recordStep s

/-- At most `k` STEPs, stopping once the pass is not RUNNING (R108). -/
def runSteps : Nat → State → Host.Outcome State Fault Refusal
  | 0, s => .next s
  | k + 1, s => if isBusy s then andThen (driverStep s) (runSteps k) else .next s

/-- The most STEPs a pass over `L` bytes can take: `⌈L/2⌉ + 1` (R109). -/
def stepBound (len : Nat) : Nat := (len + 1) / 2 + 1

/-- Return `STATUS` to the host. -/
def answerStatus (s : State) : Host.Outcome State Fault Refusal := .next (answer (.status s.status) s)

/-- RESET (R103). -/
def opReset (s : State) : Host.Outcome State Fault Refusal := .next (answer .ack (resetBlock s))

/-- BEGIN (R105). -/
def opBegin (bytes : List Byte) (s : State) : Host.Outcome State Fault Refusal :=
  if fits s bytes then .next (answer .ack (beginBlock bytes s)) else .next (answer (.refused .tooLong) s)

/-- STEP (R106). -/
def opStep (s : State) : Host.Outcome State Fault Refusal := andThen (driverStep s) answerStatus

/-- RUN: BEGIN, then STEPs while RUNNING (R108). Its loop is bounded as R109 says. -/
def opRun (bytes : List Byte) (s : State) : Host.Outcome State Fault Refusal :=
  if fits s bytes then andThen (runSteps (stepBound bytes.length) (beginBlock bytes s)) answerStatus
  else .next (answer (.refused .tooLong) s)

/-- Perform one request of the host (R66, R104). -/
def perform (q : Request) (s : State) : Host.Outcome State Fault Refusal :=
  match q with
  | .reset => opReset s
  | .load bytes => opLoad bytes s
  | .take n => opTake n s
  | .peek n => opPeek n s
  | .remaining => opRemaining s
  | .isEmpty => opIsEmpty s
  | .beginPass bytes => opBegin bytes s
  | .step => opStep s
  | .run bytes => opRun bytes s
  | .readout => opReadout s
  | .map c => opMap c s
  | .encode g ov => opEncode g ov s
  | .supplyPalette p => opSupplyPalette p s
  | .adjustPalette => opAdjustPalette s
  | .supplyPalMode m => opSupplyPalMode m s
  | .supplyEncoder v pre post => opSupplyEncoder v pre post s

end Sys2Proof.Machine
end

