-- ==== Sys2Proof/Machine/Step.lean ====
section
/-! DEFINITION. One step of the machine: the next operation the host has issued, performed whole (R6, R51); with none issued the
block holds its state (R135). -/

namespace Sys2Proof.Machine

def step (s : State) : Host.Outcome State Fault Refusal :=
  match s.pending with
  | [] => .next s
  | q :: rest => perform q (setPending rest s)

/-- `s` with the record of a table word placed where the very next step runs it: the record is the input, the cursor is at its end,
the pass is RUNNING below the row cap, and the host's next operation is STEP. The header 0x3088 is BRKTRIG only at `ROWS = 212`
(R65), so for it `ROWS` and `RB` are set to 212 rows and no break is recorded. Log entries 11 and 12. -/
def State.withFetchWord (s : State) (nbits w : Nat) : State :=
  let bytes := (tableBytes nbits w).reverse
  let want := (tableCtx nbits w).rows
  let rows := if want = 0 then (if s.rows < Config.rowCap then s.rows else 0) else want
  { s with
    input := Memory.ofBytes bytes
    len := bytes.length
    tail := bytes.length
    status := .running
    rows := rows
    brkValid := want = 0 && rows = s.rows && s.brkValid
    rb := if rows = s.rows then s.rb else List.replicate rows (List.replicate Config.width 0#4)
    pending := [.step] }

end Sys2Proof.Machine
end

