-- ==== Sys2Proof/Safety.lean ====
section
/-! DEFINITION. What counts as a safe run: the invariant of the block's state, and a step that does not stop the machine. Then the
terms the claims use: what is still to be read, pixel positions of a payload, samples of a grid, and states alike but for the
palette. They are written from the spec's rules beside the machine, not in terms of its meanings. -/

namespace Sys2Proof.Machine

/-- A memory lists exactly the addresses `0..n-1`, in order. -/
def Memory.dense (m : Memory) (n : Nat) : Prop := m.map Prod.fst = List.range n

/-- The invariant of the block: it holds at power-on and every step keeps it. -/
structure State.Inv (s : State) : Prop where
  /-- `B` is `B[0..L-1]` (R26, R40). -/
  inputDense : s.input.dense s.len
  /-- `E` is `E[0..N-1]` (R40). -/
  outDense : s.encOut.dense s.encOut.length
  /-- `0 ≤ T ≤ L` (R83). -/
  tailLe : s.tail ≤ s.len
  /-- `ROWS` is the number of rows in `RB` (R23). -/
  rowsEq : s.rows = s.rb.length
  /-- `ROWS ≤ 260` (R102 (b)). -/
  rowsLe : s.rows ≤ Config.rowCap
  /-- Every row in `RB` has exactly 352 indices (R102 (a)). -/
  rowWidth : ∀ row ∈ s.rb, row.length = Config.width
  /-- `BRK_ROW` is 212 whenever it is valid (R24), and then at least 212 rows exist (R107). -/
  brkAt : s.brkValid = true → s.brkRow = Config.brkAt ∧ Config.brkAt ≤ s.rows
  /-- `BRK_ROW` is in 0..260 (R24). -/
  brkRange : s.brkRow ≤ Config.rowCap
  /-- In FAULT, `FAULT_CODE` holds 1 or 3 (R120), and the fault registers that a fault entry always writes hold a value (R126). -/
  faulted : s.status = .fault → (s.faultCode = 1#4 ∨ s.faultCode = 3#4) ∧ s.faultT0.isSome = true
    ∧ s.faultCtrl.isSome = true ∧ s.faultNeed.isSome = true ∧ s.faultHave.isSome = true
  /-- Out of FAULT, the fault registers hold none (R28, R35). -/
  unfaulted : s.status ≠ .fault → s.faultCode = 0#4 ∧ s.faultT0 = none ∧ s.faultCtrl = none ∧ s.faultCol = none
    ∧ s.faultNeed = none ∧ s.faultHave = none
  /-- The encoder keeps no state between operations (R33). -/
  chunksNil : s.chunks = []

/-- The outcome is a next state: the machine has not stopped. -/
def goesOn (o : Host.Outcome State Fault Refusal) : Prop := ∃ s', o = .next s'

/-! ### What an operation may answer (the result column of R66, the refusals of R128) -/

/-- The answer is one that the operation can have: its result in R66, an error that R66 names for it, or a refusal that R128 gives it.
That supplying the configuration is answered at all is the model's choice: log entry 16. -/
def validAnswer : Request → Reply → Prop
  | .reset, r => r = .ack
  | .load _, r => r = .ack ∨ r = .refused .busy ∨ r = .refused .tooLong
  | .take n, r => (∃ v, v.length = n ∧ r = .bytes v) ∨ (∃ have_, have_ < n ∧ r = .error (.shortBuffer n have_)) ∨ r = .refused .busy
  | .peek n, r => ∃ v, v.length ≤ n ∧ r = .bytes v
  | .remaining, r => ∃ n, r = .count n
  | .isEmpty, r => ∃ b, r = .bool b
  | .beginPass _, r => r = .ack ∨ r = .refused .tooLong
  | .step, r => ∃ st, r = .status st
  | .run _, r => r = .status .done ∨ r = .status .fault ∨ r = .refused .tooLong
  | .readout, r => (∃ out, r = .grid out) ∨ r = .refused .notDone ∨ r = .refused .unmodelledConfig
  | .map _, r => ∃ c, r = .rgb c
  | .encode g _, r => (∃ e, r = .bytes e) ∨ r = .error (.encoderShape g.length) ∨ r = .refused .unmodelledConfig
  | .supplyPalette _, r => r = .ack
  | .adjustPalette, r => r = .ack
  | .supplyPalMode _, r => r = .ack
  | .supplyEncoder _ _ _, r => r = .ack

/-! ### The input still to be read -/

/-- The input bytes in memory order. -/
def inputBytes (s : State) : List Byte := s.input.map Prod.snd

/-- The sequence still to be read, in read order: `reverse(B[0..T-1])` (R83). -/
def unread (s : State) : List Byte := ((inputBytes s).take s.tail).reverse

/-- The last `min(n, T)` bytes still to be read, in memory order (R85). -/
def lastUnread (n : Nat) (s : State) : List Byte := ((inputBytes s).take s.tail).drop (s.tail - n)

/-- A running pass at its loop test with a record to step: `STATUS = RUNNING`, `T > 0` and `ROWS < 260` (R90). -/
def atRecord (s : State) : Prop := s.status = .running ∧ 0 < s.tail ∧ s.rows < Config.rowCap

/-- The input is `B[0..L-1]` and the cursor is inside it (R26, R83): what the cursor needs to read. -/
def inputOk (s : State) : Prop := s.input.dense s.len ∧ s.tail ≤ s.len

/-! ### Pixel positions of a payload (R45, R63): decoded pixel `j` is bit `7 - j % 8` of pair `j / 8` -/

/-- The bit of `hi` for decoded pixel `j`. -/
def hiBit (p : List Byte) (j : Nat) : Bool := (p.getD (2 * (j / 8)) 0#8).getLsbD (7 - j % 8)

/-- The bit of `lo` for decoded pixel `j`. -/
def loBit (p : List Byte) (j : Nat) : Bool := (p.getD (2 * (j / 8) + 1) 0#8).getLsbD (7 - j % 8)

/-- The foreground nibble of the pair of decoded pixel `j`: `lo[7:4]`. -/
def pairFg (p : List Byte) (j : Nat) : ColorIndex := BitVec.ofNat 4 ((p.getD (2 * (j / 8) + 1) 0#8).toNat / 16)

/-- The background nibble of the pair of decoded pixel `j`: `lo[3:0]`. -/
def pairBg (p : List Byte) (j : Nat) : ColorIndex := BitVec.ofNat 4 ((p.getD (2 * (j / 8) + 1) 0#8).toNat % 16)

/-- `c` is what the pixels before decoded pixel `j` carry forward: the background of the nearest earlier 1-bit in row order, or
`prev` if no 1-bit comes before it (R143). -/
def carries (prev : ColorIndex) (p : List Byte) (j : Nat) (c : ColorIndex) : Prop :=
  ((∀ i, i < j → hiBit p i = false) → c = prev) ∧
  (∀ i, i < j → hiBit p i = true → (∀ k, i < k → k < j → hiBit p k = false) → c = pairBg p i)

/-! ### Samples of a grid (R112, R113) -/

/-- The 8-bit value `G[r][c][ch]`. -/
def sample (g : Grid) (r c ch : Nat) : Nat := (((g.getD r []).getD c []).getD ch 0#8).toNat

/-- The sum of the 12 samples of the 4 pixels from column `c` on. -/
def sampleSum12 (g : Grid) (r c : Nat) : Nat :=
  ((List.range 4).map fun k => ((List.range 3).map fun ch => sample g r (c + k) ch).sum).sum

/-- The color index those 12 samples quantize to: `floor((S + 102) / 204)`, at most 15 (R112). -/
def blockColor (g : Grid) (r c : Nat) : ColorIndex := BitVec.ofNat 4 (min 15 ((sampleSum12 g r c + 102) / 204))

/-- The grid is exactly 256 rows of 352 pixels of 3 channels (R111). -/
def admitted (g : Grid) : Prop := g.length = 256 ∧ ∀ row ∈ g, row.length = 352 ∧ ∀ q ∈ row, q.length = 3

/-- `BlockChunk(lines)` (R115). -/
def blockChunk (pre post : List Byte) (o : Overlay) : List Byte :=
  pre ++ (o.first :: o.more).flatMap textLineChunk ++ post

/-- `Assemble(RC, OV)` as R118 writes it: for `r` in 0..256, the blocks at `r` in list order, then `RC[r]` if `r < 256`. -/
def assembled (pre post : List Byte) (ov : List Overlay) (g : Grid) : List Byte :=
  (List.range 257).flatMap fun r =>
    (ov.filter fun o => o.pos.val == r).flatMap (blockChunk pre post) ++ ((g[r]?).map rowChunk).getD []

/-- The bytes the overlay blocks add to the output (R118). -/
def overlayBytes (pre post : List Byte) (ov : List Overlay) : Nat :=
  (ov.map fun o => pre.length + 134 * (o.more.length + 1) + post.length).sum

/-- The number of text lines of an overlay list. -/
def overlayLines (ov : List Overlay) : Nat := (ov.map fun o => o.more.length + 1).sum

/-! ### States alike but for the palette (R81) -/

/-- `t` is `s` but for `PALETTE16`, `PALMODE` (latched or supplied) and the answers given to the host. -/
def alikeButPalette (s t : State) : Prop :=
  { s with
    palette16 := t.palette16
    palMode := t.palMode
    inputs := { s.inputs with palette16 := t.inputs.palette16, palMode := t.inputs.palMode }
    replies := t.replies } = t

end Sys2Proof.Machine
end

