-- ==== Sys2Proof/WellFormed.lean ====
section
/-! DEFINITION. When an instruction term stands for a record of the map (R65) or of the encoder (R68), and in which decoder state
the map selects it. The header fields and the payload length are the decoder's own (Decode.lean). -/

namespace Sys2Proof

/-- The header and payload of the term are ones its row of the opcode map can have. -/
def Instr.wf : Instr → Bool
  | .unkmodeR0 ctrl col => hits (headerWord ctrl col) 0x7040#16 0x4040#16
  | .unkmodeR1 ctrl col => hits (headerWord ctrl col) 0x7040#16 0x5040#16
  | .unkmodeR2 ctrl col => hits (headerWord ctrl col) 0x7040#16 0x6040#16
  | .textmark col p => plen Config.textCtrl col == some p.length
  | .brktrig p => p.length == 2
  | .brkdup p => p.length == 2
  | .gfx4 res _ _ _ _ p => p.length == cols res / 8 * 2
  | .gfx16 res _ _ _ _ p => p.length == cols res / 8 * 2
  | .skip00 p => p.length == 2
  | .skipff p => p.length == 132
  | .skipunit ctrl col =>
    !nucOf col && ctrl != Config.textCtrl && headerWord ctrl col != 0x0000#16
  | .unrec ctrl col p =>
    plen ctrl col == some p.length && ctrl != Config.textCtrl
      && !hits (headerWord ctrl col) 0x4040#16 0x0040#16
      && headerWord ctrl col != 0x0000#16 && headerWord ctrl col != 0xFFFF#16
      && !(!nucOf col && zeroPair p)
  | .encRow16 g => g.length == Config.width && g.all fun q => q.length == 3
  | .encText _ => true

/-- The opcode map selects the term's row in the decoder state `c`: the conditions of BRKTRIG and BRKDUP, and, for the rows after
them, that neither claims the header 0x3088 (R65, R93). -/
def Instr.selectedIn (c : DispatchCtx) : Instr → Bool
  | .unkmodeR0 _ _ => true
  | .unkmodeR1 _ _ => true
  | .unkmodeR2 _ _ => true
  | .textmark _ _ => true
  | .brktrig _ => triggers c
  | .brkdup _ => c.brkValid
  | .gfx4 _ _ _ _ _ _ => true
  | .gfx16 _ _ _ _ _ _ => true
  | .skip00 _ => true
  | .skipff _ => true
  | .skipunit ctrl col => headerWord ctrl col != Config.brkHeader || !(triggers c || c.brkValid)
  | .unrec ctrl col _ => headerWord ctrl col != Config.brkHeader || !(triggers c || c.brkValid)
  | .encRow16 _ => true
  | .encText _ => true

/-- The record is one the encoder emits (stage "encoder" of the opcode table, R68), not a kind of the decoder's map. -/
def Instr.isEncoderRecord : Instr → Bool
  | .unkmodeR0 _ _ => false
  | .unkmodeR1 _ _ => false
  | .unkmodeR2 _ _ => false
  | .textmark _ _ => false
  | .brktrig _ => false
  | .brkdup _ => false
  | .gfx4 _ _ _ _ _ _ => false
  | .gfx16 _ _ _ _ _ _ => false
  | .skip00 _ => false
  | .skipff _ => false
  | .skipunit _ _ => false
  | .unrec _ _ _ => false
  | .encRow16 _ => true
  | .encText _ => true

end Sys2Proof
end

