-- ==== Sys2Proof/Certificates/Slice0/Obligations.lean ====
section
/-! DEFINITION. The statements for the provers, from the numbered rules of spec/. Each docstring names the rule it rests on. -/

open Sys2Proof Sys2Proof.Machine

/-! ## Encoding -/

/-- R58, and the places of R55's fields: each field by its place in the byte. -/
def Obligations.HeaderFieldsByPosition : Prop :=
  ∀ ctrl col : Byte,
    (dispOf ctrl).toNat = ctrl.toNat / 64 ∧ (resOf ctrl).toNat = ctrl.toNat / 16 % 4 ∧ (repOf ctrl).toNat = ctrl.toNat % 16 ∧
    (enOf col).toNat = col.toNat / 128 ∧ (nucOf col).toNat = col.toNat / 64 % 2 ∧ (cregOf col).toNat = col.toNat / 16 % 4 ∧
    (cselOf col).toNat = col.toNat % 16

/-- R60: the payload length, case by case, on the bytes themselves. -/
def Obligations.PayloadLengthByHeader : Prop :=
  ∀ ctrl col : Byte,
    let disp := ctrl.toNat / 64
    let res := ctrl.toNat / 16 % 4
    let nuc := col.toNat / 64 % 2
    plen ctrl col =
      if nuc = 0 then some 2
      else if disp = 0 ∨ disp = 2 then some (([88, 176, 352, 528].getD res 0) / 8 * 2)
      else if (disp = 1 ∨ disp = 3) ∧ res = 3 then some 132
      else none

/-- R93, R94 and R65: what the header 0x3088 with a 2-byte payload is, in every decoder state. -/
def Obligations.BreakHeaderDispatch : Prop :=
  ∀ (c : DispatchCtx) (a b : Byte) (rest : List Byte),
    decode c (0x30#8 :: 0x88#8 :: a :: b :: rest) =
      .ok (if c.brkValid = true then .brkdup [a, b]
        else if c.rows = 212 then .brktrig [a, b]
        else if a = 0#8 ∧ b = 0#8 then .skipunit 0x30#8 0x88#8
        else .unrec 0x30#8 0x88#8 [a, b], rest)

/-- The table's own words, each written out from its match, decode to their rows (payload bits 0). What the map of R65 gives them, with
two choices of the model: the header 0x3088 is decoded at `ROWS = 212` with no break recorded, so as BRKTRIG (the table gives no
decoder state: log entry 12), and of the kinds with priority 6 the first in the table's order is taken, so 0x0000 is SKIP00 (R65
calls the order immaterial: log entry 13). -/
def Obligations.TableWordsDecode : Prop :=
  decodeTableWord 16 0x4040 = some (.unkmodeR0 0x40#8 0x40#8) ∧
  decodeTableWord 16 0xD040 = some (.unkmodeR1 0xD0#8 0x40#8) ∧
  decodeTableWord 16 0x607F = some (.unkmodeR2 0x60#8 0x7F#8) ∧
  decodeTableWord 16 0x7A00 = some (.textmark 0x00#8 [0#8, 0#8]) ∧
  decodeTableWord 16 0x3088 = some (.brktrig [0#8, 0#8]) ∧
  decodeTableWord 16 0x02C7 = some (.gfx4 0#2 2#4 true 0#2 7#4 (List.replicate 22 0#8)) ∧
  decodeTableWord 16 0x9140 = some (.gfx16 1#2 1#4 false 0#2 0#4 (List.replicate 44 0#8)) ∧
  decodeTableWord 16 0x0000 = some (.skip00 [0#8, 0#8]) ∧
  decodeTableWord 16 0xFFFF = some (.skipff (List.replicate 132 0#8)) ∧
  decodeTableWord 16 0xC500 = some (.skipunit 0xC5#8 0x00#8) ∧
  decodeTableWord 16 0x7040 = some (.unrec 0x70#8 0x40#8 (List.replicate 132 0#8))

/-- Decoding an encoded well-formed instruction that the map selects gives it back, whatever bytes follow (R54, R64, R65). -/
def Obligations.DecodeOfEncode : Prop :=
  ∀ (c : DispatchCtx) (i : Instr) (rest : List Byte),
    i.wf = true → i.selectedIn c = true → i.isEncoderRecord = false → decode c (encode i ++ rest) = .ok (i, rest)

/-- Whatever decodes is well formed, is selected in that state, and encodes to exactly the bytes it was read from. -/
def Obligations.EncodeOfDecode : Prop :=
  ∀ (c : DispatchCtx) (bytes rest : List Byte) (i : Instr),
    decode c bytes = .ok (i, rest) →
      encode i ++ rest = bytes ∧ i.wf = true ∧ i.selectedIn c = true ∧ i.isEncoderRecord = false

/-- R122: bytes hold no record in exactly three cases, each too short. -/
def Obligations.DecodeRejectsOnlyShortInput : Prop :=
  ∀ (c : DispatchCtx) (bytes : List Byte) (e : DecodeError),
    decode c bytes = .error e ↔
      (e = .noControl ∧ bytes = []) ∨ (e = .noColor ∧ ∃ ctrl, bytes = [ctrl]) ∨
      (∃ ctrl col rest n, bytes = ctrl :: col :: rest ∧ plen ctrl col = some n ∧ rest.length < n ∧
        e = .shortPayload n rest.length)

/-- The decoder reads ENC.ROW16 as GFX16 (res 2, rep 0, no register change) and ENC.TEXT as TEXTMARK; their lengths. The spec marks
R68, which says so, as derived; it follows from the encoding rules and the two chunk formats. -/
def Obligations.EncoderRecordsDecode : Prop :=
  ∀ (c : DispatchCtx) (g : ImageRow) (t rest : List Byte),
    (encode (.encRow16 g)).length = 90 ∧ (encode (.encText t)).length = 134 ∧
    encode (.encRow16 g) = rowChunk g ∧ encode (.encText t) = textLineChunk t ∧
    decode c (rowChunk g ++ rest) = .ok (.gfx16 2#2 0#4 false 0#2 0#4 ((rowChunk g).drop 2), rest) ∧
    decode c (textLineChunk t ++ rest) = .ok (.textmark 0x40#8 ((textLineChunk t).drop 2), rest)

/-! ## One step -/

/-- R90, R106: the step of a running pass whose unread bytes decode to `i` is `exec i`, after `T0` is latched and `T` has moved past
the record; then `STATUS` is answered. That `T0` stands in the state is the model's choice: log entry 8. -/
def Obligations.StepRunsDecodedRecord : Prop :=
  ∀ (s : State) (q : List Request) (i : Instr) (left : List Byte),
    s.pending = .step :: q → inputOk s → atRecord s → decode s.ctx (unread s) = .ok (i, left) →
      step s = andThen (exec i { s with pending := q, recT0 := s.tail, tail := left.length })
        fun t => .next { t with replies := t.replies ++ [.status t.status] }

/-- R122, R126: a record whose color byte or payload is cut short takes the fault SHORT_BUFFER, with the header TAKEs done. -/
def Obligations.ShortRecordTakesFault : Prop :=
  ∀ (s : State) (q : List Request) (e : DecodeError),
    s.pending = .step :: q → inputOk s → atRecord s → decode s.ctx (unread s) = .error e →
      ∃ need have_ took,
        ((e = .noColor ∧ s.tail = 1 ∧ need = 1 ∧ have_ = 0 ∧ took = 1) ∨
         (e = .shortPayload need have_ ∧ 2 ≤ s.tail ∧ have_ = s.tail - 2 ∧ have_ < need ∧ took = 2)) ∧
        step s = .next { s with
          pending := q, recT0 := s.tail, tail := s.tail - took, status := .fault, faultCode := 1#4, faultT0 := some s.tail
          faultCtrl := (unread s)[0]?, faultCol := (unread s)[1]?, faultNeed := some need, faultHave := some have_
          replies := s.replies ++ [.status .fault] }

/-- R107: FINISH at the loop test. In invariant states display row `k` is decoded row `(BRK_ROW + k) mod ROWS` after a recorded
break, and decoded row `k` with none; nothing but `RB` and `STATUS` changes. -/
def Obligations.FinishRotatesRows : Prop :=
  ∀ (s : State) (q : List Request),
    s.pending = .step :: q → s.Inv → s.status = .running → (s.tail = 0 ∨ 260 ≤ s.rows) →
      ∃ rb : List Row,
        rb.length = s.rows ∧
        (∀ k, k < s.rows → rb[k]? = if s.brkValid = true then s.rb[(s.brkRow + k) % s.rows]? else s.rb[k]?) ∧
        step s = .next { s with pending := q, rb := rb, status := .done, replies := s.replies ++ [.status .done] }

/-- R106, R130: STEP outside a running pass changes nothing and answers `STATUS`. -/
def Obligations.StepOutsidePassHolds : Prop :=
  ∀ (s : State) (q : List Request),
    s.pending = .step :: q → s.status ≠ .running →
      step s = .next { s with pending := q, replies := s.replies ++ [.status s.status] }

/-- With no operation issued the block holds its state (R135). That the issued operations stand in a queue is the model's choice: log
entry 7. -/
def Obligations.NoRequestHolds : Prop :=
  ∀ s : State, s.pending = [] → step s = .next s

/-- The queue and answer discipline: a step is the first issued operation, performed on the state with that operation taken off the
queue; it leaves the rest of the queue, and it appends one answer. For the twelve operations of R66 the answer is of the kind that
R66's result column, R108 (RUN: DONE or FAULT) and R128's refusals give. The queue and the list of answers, with `ack` for an operation
without a result, are the model's choice: log entries 6 and 7; that a RUN too long is refused whole is entry 10's. R66 and R128 do not
list the four requests that supply the configuration: that they are requests at all, and are answered `ack`, is the model's choice
too: log entry 16. -/
def Obligations.StepAnswersFirstRequestOnce : Prop :=
  ∀ (s : State) (op : Request) (q : List Request), s.pending = op :: q →
    step s = perform op { s with pending := q } ∧
    ∀ t : State, step s = .next t → t.pending = q ∧ ∃ r : Reply, t.replies = s.replies ++ [r] ∧ validAnswer op r

/-! ## Invariants and whole-machine rules -/

/-- The invariant holds at power-on. `State.Inv` is the model's collection of the spec's facts, each clause naming its rule. -/
def Obligations.ResetMeetsInvariant : Prop := State.reset.Inv

/-- The invariant is kept by every step, whatever the host has issued. -/
def Obligations.StepKeepsInvariant : Prop :=
  ∀ s t : State, s.Inv → step s = .next t → t.Inv

/-- From a state that meets the invariant no step stops the machine. -/
def Obligations.StepGoesOnFromInvariant : Prop :=
  ∀ s : State, s.Inv → ∃ t, step s = .next t

/-- The values that R35 and R136 give the power-on state; the values that log entries 1, 3 and 4 choose are not in it. -/
def Obligations.PowerOnState : Prop :=
  State.reset.status = .idle ∧ State.reset.faultCode = 0#4 ∧ State.reset.faultT0 = none ∧ State.reset.faultCtrl = none ∧
  State.reset.faultCol = none ∧ State.reset.faultNeed = none ∧ State.reset.faultHave = none ∧
  State.reset.creg.toList = [1#4, 9#4, 12#4, 15#4] ∧ State.reset.rows = 0 ∧ State.reset.brkValid = false ∧
  State.reset.rb = [] ∧ State.reset.ev = [] ∧ inputBytes State.reset = [] ∧ State.reset.len = 0 ∧ State.reset.tail = 0

/-- What a record's meaning can change at all (what the spec's R102 (d) and table R37 say; it marks both as derived). `CREG` only in
GFX4, `PREVBG` only in GFX16, `BRK_*` only in BRKTRIG, rows only in the two graphics kinds, the fault registers and `STATUS` only
there; `EV` only in UNKMODE, TEXTMARK, BRKDUP and UNREC (R91, R92, R94, R99), and it only ever grows, by one event (R31); `C` only in
the encoder records (log entry 9); no meaning touches the input, the cursor, the palette, the configuration, `E`, or what the host
has issued and been answered. That the state holds the draws, the queue and the answers, `BUF_CAP`, `T0`, `E` and `C`, and the
supplied configuration is the model's choice: log entries 2, 6, 7, 4, 8, 9 and 16. -/
def Obligations.RecordFrames : Prop :=
  ∀ (i : Instr) (s t : State), exec i s = .next t →
    (t.creg ≠ s.creg → ∃ res rep creg csel p, i = .gfx4 res rep true creg csel p ∧ s.brkValid = false) ∧
    (t.prevBg ≠ s.prevBg → ∃ res rep en creg csel p, i = .gfx16 res rep en creg csel p) ∧
    ((t.brkValid ≠ s.brkValid ∨ t.brkRow ≠ s.brkRow) → ∃ p, i = .brktrig p) ∧
    ((t.rb ≠ s.rb ∨ t.rows ≠ s.rows ∨ t.status ≠ s.status ∨ t.faultCode ≠ s.faultCode ∨ t.faultT0 ≠ s.faultT0 ∨
        t.faultCtrl ≠ s.faultCtrl ∨ t.faultCol ≠ s.faultCol ∨ t.faultNeed ≠ s.faultNeed ∨ t.faultHave ≠ s.faultHave) →
      ∃ res rep en creg csel p, i = .gfx4 res rep en creg csel p ∨ i = .gfx16 res rep en creg csel p) ∧
    (t.ev ≠ s.ev →
      (∃ ctrl col, i = .unkmodeR0 ctrl col ∨ i = .unkmodeR1 ctrl col ∨ i = .unkmodeR2 ctrl col) ∨
      (∃ col p, i = .textmark col p) ∨ (∃ p, i = .brkdup p) ∨ (∃ ctrl col p, i = .unrec ctrl col p)) ∧
    (t.ev = s.ev ∨ ∃ e, t.ev = s.ev ++ [e]) ∧
    (t.chunks ≠ s.chunks → i.isEncoderRecord = true) ∧
    t.input = s.input ∧ t.len = s.len ∧ t.tail = s.tail ∧ t.recT0 = s.recT0 ∧ t.palette16 = s.palette16 ∧
    t.palMode = s.palMode ∧ t.inputs = s.inputs ∧ t.bufCap = s.bufCap ∧ t.encOut = s.encOut ∧ t.draws = s.draws ∧
    t.pending = s.pending ∧ t.replies = s.replies

/-- A record step that does not fault lowers `T` by at least 2, and leaves the pass RUNNING (the spec's R102 (e), which it marks as
derived). -/
def Obligations.RecordStepLowersTail : Prop :=
  ∀ (s t : State) (q : List Request),
    s.pending = .step :: q → inputOk s → atRecord s → step s = .next t →
      t.status = .fault ∨ (t.status = .running ∧ t.tail + 2 ≤ s.tail)

/-- RUN of an input that fits ends a pass DONE or FAULT, and no STEP after the first `⌈L/2⌉ + 1` changes anything (the bound of R109,
which the spec marks as derived). A RUN of an input longer than `BUF_CAP` is refused TooLong, changes nothing and steps no older pass
(R128's TooLong at RUN's BEGIN, R108). The bound on the model's own loop, and that such a RUN is refused whole, are the model's
deductions: log entry 10. -/
def Obligations.RunEndsWithinBound : Prop :=
  ∀ (s : State) (bytes : List Byte) (q : List Request), s.pending = .run bytes :: q →
    ((∃ cap, s.bufCap = some cap ∧ cap < bytes.length) →
      step s = .next { s with pending := q, replies := s.replies ++ [.refused .tooLong] }) ∧
    ((∀ cap, s.bufCap = some cap → bytes.length ≤ cap) →
      ∃ t : State, (t.status = .done ∨ t.status = .fault) ∧
        (∀ k, (bytes.length + 1) / 2 + 1 ≤ k → runSteps k (beginBlock bytes { s with pending := q }) = .next t) ∧
        step s = .next { t with replies := t.replies ++ [.status t.status] })

/-- R130, R27: FAULT is sticky. Only RESET, BEGIN and RUN (which begins with BEGIN) leave it, and no other operation changes a fault
register, the rows or a decoder register. -/
def Obligations.FaultStaysUntilResetOrBegin : Prop :=
  ∀ (s t : State) (op : Request) (q : List Request),
    s.pending = op :: q → s.status = .fault → op ≠ .reset → (∀ b, op ≠ .beginPass b) → (∀ b, op ≠ .run b) →
      step s = .next t →
        t.status = .fault ∧ t.faultCode = s.faultCode ∧ t.faultT0 = s.faultT0 ∧ t.faultCtrl = s.faultCtrl ∧
        t.faultCol = s.faultCol ∧ t.faultNeed = s.faultNeed ∧ t.faultHave = s.faultHave ∧ t.rb = s.rb ∧ t.rows = s.rows ∧
        t.creg = s.creg ∧ t.prevBg = s.prevBg ∧ t.brkValid = s.brkValid ∧ t.brkRow = s.brkRow ∧ t.ev = s.ev

/-- R101, R126: a record step that faults has changed no register, row or event; `FAULT_T0` is `T` where the record began. -/
def Obligations.FaultingRecordLeavesRows : Prop :=
  ∀ (s t : State) (q : List Request),
    s.pending = .step :: q → inputOk s → atRecord s → step s = .next t → t.status = .fault →
      t.creg = s.creg ∧ t.prevBg = s.prevBg ∧ t.rb = s.rb ∧ t.rows = s.rows ∧ t.brkValid = s.brkValid ∧
      t.brkRow = s.brkRow ∧ t.ev = s.ev ∧ t.faultT0 = some s.tail ∧ (t.faultCode = 1#4 ∨ t.faultCode = 3#4)

/-- R144: once the break is recorded no STEP writes a color register or records it again; and the trigger itself writes none. -/
def Obligations.BreakSuppressesRegisterWrites : Prop :=
  (∀ (s t : State) (q : List Request), s.pending = .step :: q → s.brkValid = true → step s = .next t →
      t.creg = s.creg ∧ t.brkValid = true ∧ t.brkRow = s.brkRow) ∧
  (∀ (p : List Byte) (s t : State), exec (.brktrig p) s = .next t → t.creg = s.creg ∧ t.brkValid = true)

/-- R53: while RUNNING, nothing but BEGIN (alone or in RUN) writes the input. -/
def Obligations.InputImmutableWhileRunning : Prop :=
  ∀ (s t : State) (op : Request) (q : List Request),
    s.pending = op :: q → s.status = .running → (∀ b, op ≠ .beginPass b) → (∀ b, op ≠ .run b) → step s = .next t →
      t.input = s.input ∧ t.len = s.len ∧ t.tail ≤ s.tail

/-- R32, R145: the latched configuration changes at BEGIN only (alone or in RUN), and then to what the host has supplied. That what is
supplied stands in the state, by requests of the host, is the model's choice: log entry 16. `BUF_CAP` never changes: R9 leaves it open
as a parameter of the block, and that it is a field of the state which no step changes is the model's choice: log entry 4. -/
def Obligations.ConfigurationLatchedAtBegin : Prop :=
  ∀ (s t : State) (op : Request) (q : List Request),
    s.pending = op :: q → step s = .next t →
      t.bufCap = s.bufCap ∧
      ((t.palette16 = s.palette16 ∧ t.palMode = s.palMode) ∨
       (t.palette16 = s.inputs.palette16 ∧ t.palMode = s.inputs.palMode ∧ ∃ b, op = .beginPass b ∨ op = .run b))

/-- Two blocks alike but for the palette stay so, whatever the host issues: index decoding does not depend on it (R81, which the spec
marks as derived). That the supplied palette and mode stand in the state beside the latched ones is the model's choice: log entry
16. -/
def Obligations.PaletteIndependence : Prop :=
  ∀ s s' t : State, alikeButPalette s s' → step s = .next t → ∃ t', step s' = .next t' ∧ alikeButPalette t t'

/-- What RUN leaves of a pass depends only on the input bytes, the supplied palette and mode, and the draw `PREVBG_RESET` (R139, which
the spec marks as derived; the draw is the free value of log entry 2, and that the supplied palette and mode stand in the state is
the model's choice: log entry 16). -/
def Obligations.RunDependsOnlyOnItsInputs : Prop :=
  ∀ (s s' t t' : State) (bytes : List Byte) (q q' : List Request),
    s.pending = .run bytes :: q → s'.pending = .run bytes :: q' → fits s bytes = true → fits s' bytes = true →
    Config.prevBgReset s.draws = Config.prevBgReset s'.draws →
    s.inputs.palette16 = s'.inputs.palette16 → s.inputs.palMode = s'.inputs.palMode →
    step s = .next t → step s' = .next t' →
      t.status = t'.status ∧ t.rb = t'.rb ∧ t.rows = t'.rows ∧ t.ev = t'.ev ∧ t.tail = t'.tail ∧ t.creg = t'.creg ∧
      t.prevBg = t'.prevBg ∧ t.brkValid = t'.brkValid ∧ (t.brkValid = true → t.brkRow = t'.brkRow) ∧
      t.faultCode = t'.faultCode ∧ t.faultT0 = t'.faultT0 ∧ t.faultCtrl = t'.faultCtrl ∧ t.faultCol = t'.faultCol ∧
      t.faultNeed = t'.faultNeed ∧ t.faultHave = t'.faultHave ∧ t.palette16 = t'.palette16 ∧ t.palMode = t'.palMode ∧
      outGrid t = outGrid t'

/-! ## What each record does -/

/-- R91: each of the three unknown-mode headers logs one UNKNOWN_LINE_MODE(LENGTH) whose diagnostic is the last `min(70, T)` unread
bytes in memory order, and changes nothing else. -/
def Obligations.UnknownModeLogsDiagnostic : Prop :=
  ∀ (ctrl col : Byte) (s : State) (i : Instr),
    i = .unkmodeR0 ctrl col ∨ i = .unkmodeR1 ctrl col ∨ i = .unkmodeR2 ctrl col → inputOk s →
      (lastUnread 70 s).length = min 70 s.tail ∧
      exec i s = .next { s with ev := s.ev ++ [.unknownLineMode .length s.recT0 ctrl col (lastUnread 70 s)] }

/-- R92: a text marker logs one TEXT_OBSERVED with the payload bytes at even offsets, and changes nothing else. -/
def Obligations.TextMarkerLogsEvenCells : Prop :=
  ∀ (col : Byte) (p : List Byte) (s : State),
    ∃ cells : List Byte,
      cells.length = (p.length + 1) / 2 ∧ (∀ k, k < cells.length → cells[k]? = p[2 * k]?) ∧
      exec (.textmark col p) s = .next { s with ev := s.ev ++ [.textObserved s.recT0 cells] }

/-- R93: the trigger records the break at the current row count and does nothing else, whatever its payload. -/
def Obligations.BreakTriggerRecordsRow : Prop :=
  ∀ (p : List Byte) (s : State), exec (.brktrig p) s = .next { s with brkValid := true, brkRow := s.rows }

/-- R94, R125: the duplicate trigger logs ASCII_BREAK_ALREADY_SET and does nothing else. -/
def Obligations.BreakDuplicateOnlyLogs : Prop :=
  ∀ (p : List Byte) (s : State),
    exec (.brkdup p) s = .next { s with ev := s.ev ++ [.asciiBreakAlreadySet s.recT0 s.rows] }

/-- R97: the three benign skips change nothing and log nothing, whatever their operands. -/
def Obligations.BenignSkipsChangeNothing : Prop :=
  ∀ (ctrl col : Byte) (p : List Byte) (s : State),
    exec (.skip00 p) s = .next s ∧ exec (.skipff p) s = .next s ∧ exec (.skipunit ctrl col) s = .next s

/-- R99: an unrecognized record logs UNKNOWN_LINE_MODE(DISPATCH) with its payload and does nothing else. -/
def Obligations.UnrecognizedLogsPayload : Prop :=
  ∀ (ctrl col : Byte) (p : List Byte) (s : State),
    exec (.unrec ctrl col p) s = .next { s with ev := s.ev ++ [.unknownLineMode .dispatch s.recT0 ctrl col p] }

/-- R95, R100: a GFX4 record at res 0, 1, 2 writes `CREG[creg]` first unless a break is recorded, and appends `min(rep+1, 260-ROWS)`
copies of the row whose pixel at column `x` is the register selected by bits `hi`, `lo` of decoded pixel `x / MULT`. -/
def Obligations.Gfx4WritesRegisterThenRow : Prop :=
  ∀ (res : BitVec 2) (rep : BitVec 4) (en : Bool) (creg : BitVec 2) (csel : ColorIndex) (p : List Byte) (s : State) (m : Nat),
    (res.toNat, m) ∈ [(0, 4), (1, 2), (2, 1)] → p.length * m = 88 →
      ∃ (regs : Vector ColorIndex 4) (row : Row),
        (∀ i : Fin 4, regs.get i =
          if en = true ∧ s.brkValid = false ∧ i.val = creg.toNat then csel else s.creg.get i) ∧
        row.length = 352 ∧
        (∀ x, x < 352 →
          row[x]? = some (regs.get (Fin.ofNat 4 (2 * (hiBit p (x / m)).toNat + (loBit p (x / m)).toNat)))) ∧
        exec (.gfx4 res rep en creg csel p) s = .next { s with
          creg := regs
          rb := s.rb ++ List.replicate (min (rep.toNat + 1) (260 - s.rows)) row
          rows := s.rows + min (rep.toNat + 1) (260 - s.rows) }

/-- R96, R143, R100: a GFX16 record at res 0, 1, 2 appends `min(rep+1, 260-ROWS)` copies of the row whose pixel is the pair's foreground
at a 1-bit and the carried background at a 0-bit, and leaves in `PREVBG` what the whole row carries forward. -/
def Obligations.Gfx16CarriesBackground : Prop :=
  ∀ (res : BitVec 2) (rep : BitVec 4) (en : Bool) (creg : BitVec 2) (csel : ColorIndex) (p : List Byte) (s : State) (m : Nat),
    (res.toNat, m) ∈ [(0, 4), (1, 2), (2, 1)] → p.length * m = 88 →
      ∃ (row : Row) (bg : ColorIndex),
        row.length = 352 ∧
        (∀ x, x < 352 → ∃ c, row[x]? = some c ∧
          (hiBit p (x / m) = true → c = pairFg p (x / m)) ∧
          (hiBit p (x / m) = false → carries s.prevBg p (x / m) c)) ∧
        carries s.prevBg p (352 / m) bg ∧
        exec (.gfx16 res rep en creg csel p) s = .next { s with
          prevBg := bg
          rb := s.rb ++ List.replicate (min (rep.toNat + 1) (260 - s.rows)) row
          rows := s.rows + min (rep.toNat + 1) (260 - s.rows) }

/-- When every `hi` byte of a GFX16 record is 0, every pixel is `PREVBG` and `PREVBG` does not change (the spec's R102 (f), which it
marks as derived). -/
def Obligations.Gfx16ZeroMaskRepeatsBackground : Prop :=
  ∀ (res : BitVec 2) (rep : BitVec 4) (en : Bool) (creg : BitVec 2) (csel : ColorIndex) (p : List Byte) (s : State),
    res ≠ 3#2 → p.length = cols res / 8 * 2 → (∀ k, 2 * k < p.length → p[2 * k]? = some 0#8) →
      exec (.gfx16 res rep en creg csel p) s = .next { s with
        rb := s.rb ++ List.replicate (min (rep.toNat + 1) (260 - s.rows)) (List.replicate 352 s.prevBg)
        rows := s.rows + min (rep.toNat + 1) (260 - s.rows) }

/-- R98, R124, R126: a graphics record at res 3 takes the fault ROW_WIDTH_MISMATCH before any write: the fault registers and
`STATUS` are all that changes. -/
def Obligations.GraphicsAtRes3TakesFault : Prop :=
  ∀ (rep : BitVec 4) (en : Bool) (creg : BitVec 2) (csel : ColorIndex) (p : List Byte) (s : State),
    exec (.gfx4 3#2 rep en creg csel p) s = .next { s with
      status := .fault, faultCode := 3#4, faultT0 := some s.recT0
      faultCtrl := some (BitVec.ofNat 8 (0x30 + rep.toNat))
      faultCol := some (BitVec.ofNat 8 (128 * en.toNat + 64 + 16 * creg.toNat + csel.toNat))
      faultNeed := some 352, faultHave := some 528 } ∧
    exec (.gfx16 3#2 rep en creg csel p) s = .next { s with
      status := .fault, faultCode := 3#4, faultT0 := some s.recT0
      faultCtrl := some (BitVec.ofNat 8 (0xB0 + rep.toNat))
      faultCol := some (BitVec.ofNat 8 (128 * en.toNat + 64 + 16 * creg.toNat + csel.toNat))
      faultNeed := some 352, faultHave := some 528 }

/-- ENC.ROW16 adds to `C` the 90 bytes that R113 gives its row: header, then for each block the mask 0xF0 and `(fg << 4) | bg`. R118
appends the chunk to `C`; that `C` stands in the state and that executing the record is what appends to it is the model's choice: log
entry 9. -/
def Obligations.EncRow16AddsRowChunk : Prop :=
  ∀ (g : ImageRow) (s : State), g.length = 352 → (∀ q ∈ g, q.length = 3) →
    ∃ bs : List Byte,
      bs.length = 90 ∧ bs[0]? = some 0xA0#8 ∧ bs[1]? = some 0x40#8 ∧
      (∀ j, j < 44 → bs[2 + 2 * j]? = some 0xF0#8 ∧
        bs[3 + 2 * j]? = some (BitVec.ofNat 8
          (16 * (blockColor [g] 0 (8 * j)).toNat + (blockColor [g] 0 (8 * j + 4)).toNat))) ∧
      exec (.encRow16 g) s = .next { s with chunks := s.chunks ++ bs }

/-- ENC.TEXT adds to `C` the 134 bytes that R114 gives its line: header, then 66 pairs `(character, 0)`; 4 spaces, the line cut to 62
bytes, spaces up to 66. The space byte 0x20 is not in the source (the spec says so in R114): log entry 14. R115 and R118 append the
chunk to `C`; that `C` stands in the state and that executing the record is what appends to it is the model's choice: log entry 9. -/
def Obligations.EncTextAddsLineChunk : Prop :=
  ∀ (t : List Byte) (s : State),
    ∃ bs : List Byte,
      bs.length = 134 ∧ bs[0]? = some 0x7A#8 ∧ bs[1]? = some 0x40#8 ∧
      (∀ i, i < 66 → bs[2 + 2 * i]? = some (if i < 4 then 0x20#8 else t.getD (i - 4) 0x20#8) ∧ bs[3 + 2 * i]? = some 0#8) ∧
      exec (.encText t) s = .next { s with chunks := s.chunks ++ bs }

/-! ## Host operations -/

/-- R82: LOAD. -/
def Obligations.LoadReplacesInput : Prop :=
  ∀ (s : State) (bytes : List Byte) (q : List Request), s.pending = .load bytes :: q →
    (s.status = .running → step s = .next { s with pending := q, replies := s.replies ++ [.refused .busy] }) ∧
    (s.status ≠ .running → (∃ cap, s.bufCap = some cap ∧ cap < bytes.length) →
      step s = .next { s with pending := q, replies := s.replies ++ [.refused .tooLong] }) ∧
    (s.status ≠ .running → (∀ cap, s.bufCap = some cap → bytes.length ≤ cap) →
      ∃ m : Memory, (∀ a, m.read a = bytes[a]?) ∧ m.wf = true ∧
        step s = .next { s with
          pending := q, input := m, len := bytes.length, tail := bytes.length, replies := s.replies ++ [.ack] })

/-- R84, R88: a host TAKE: refused while RUNNING, ShortBuffer with nothing consumed, or the last `n` unread bytes in memory order. -/
def Obligations.TakeReturnsLastBytes : Prop :=
  ∀ (s : State) (n : Nat) (q : List Request), s.pending = .take n :: q →
    (s.status = .running → step s = .next { s with pending := q, replies := s.replies ++ [.refused .busy] }) ∧
    (s.status ≠ .running → s.tail < n →
      step s = .next { s with pending := q, replies := s.replies ++ [.error (.shortBuffer n s.tail)] }) ∧
    (s.status ≠ .running → n ≤ s.tail → inputOk s →
      ∃ v : List Byte, v.length = n ∧ (∀ i, i < n → v[i]? = s.input.read (s.tail - n + i)) ∧
        step s = .next { s with pending := q, tail := s.tail - n, replies := s.replies ++ [.bytes v] })

/-- R85, R86, R87: the cursor's reading operations, in every `STATUS`, change nothing. -/
def Obligations.CursorReadsChangeNothing : Prop :=
  ∀ (s : State) (n : Nat) (q : List Request),
    (s.pending = .peek n :: q → inputOk s →
      ∃ v : List Byte, v.length = min n s.tail ∧ (∀ i, i < v.length → v[i]? = s.input.read (s.tail - v.length + i)) ∧
        step s = .next { s with pending := q, replies := s.replies ++ [.bytes v] }) ∧
    (s.pending = .remaining :: q → step s = .next { s with pending := q, replies := s.replies ++ [.count s.tail] }) ∧
    (s.pending = .isEmpty :: q →
      step s = .next { s with pending := q, replies := s.replies ++ [.bool (decide (s.tail = 0))] })

/-- R105: BEGIN, in any `STATUS`. `BRK_ROW` (some value in 0..260) and `PREVBG` are free draws: log entry 2. That what BEGIN latches
stands supplied in the state is the model's choice: log entry 16. -/
def Obligations.BeginStartsPass : Prop :=
  ∀ (s : State) (bytes : List Byte) (q : List Request), s.pending = .beginPass bytes :: q →
    ((∃ cap, s.bufCap = some cap ∧ cap < bytes.length) →
      step s = .next { s with pending := q, replies := s.replies ++ [.refused .tooLong] }) ∧
    ((∀ cap, s.bufCap = some cap → bytes.length ≤ cap) →
      ∃ (m : Memory) (brkRow : Nat), (∀ a, m.read a = bytes[a]?) ∧ brkRow ≤ 260 ∧
        step s = .next { s with
          pending := q, input := m, len := bytes.length, tail := bytes.length, creg := #v[1#4, 9#4, 12#4, 15#4]
          prevBg := Config.prevBgReset s.draws, draws := s.draws + 1, rows := 0, brkValid := false, brkRow := brkRow
          rb := [], ev := [], faultCode := 0#4, faultT0 := none, faultCtrl := none, faultCol := none, faultNeed := none
          faultHave := none, palette16 := s.inputs.palette16, palMode := s.inputs.palMode, status := .running
          replies := s.replies ++ [.ack] })

/-- R103: RESET, in any `STATUS`. `PREVBG` and `BRK_ROW` are unspecified afterwards (R35): free draws, log entry 2. -/
def Obligations.ResetClearsPass : Prop :=
  ∀ (s : State) (q : List Request), s.pending = .reset :: q →
    ∃ (bg : ColorIndex) (brkRow : Nat), brkRow ≤ 260 ∧
      step s = .next { s with
        pending := q, status := .idle, faultCode := 0#4, faultT0 := none, faultCtrl := none, faultCol := none
        faultNeed := none, faultHave := none, creg := #v[1#4, 9#4, 12#4, 15#4], rows := 0, brkValid := false, rb := [], ev := []
        prevBg := bg, brkRow := brkRow, draws := s.draws + 1, replies := s.replies ++ [.ack] }

/-- R77, R79: READOUT is refused unless DONE and in the grayscale mode; else it answers the grid of R30 and changes nothing. -/
def Obligations.ReadoutMapsRows : Prop :=
  ∀ (s : State) (q : List Request), s.pending = .readout :: q →
    (s.status ≠ .done → step s = .next { s with pending := q, replies := s.replies ++ [.refused .notDone] }) ∧
    (s.status = .done → s.palMode = .gray4 →
      step s = .next { s with pending := q, replies := s.replies ++ [.refused .unmodelledConfig] }) ∧
    (s.status = .done → s.palMode = .true16 →
      ∃ out : List (List Rgb), out.length = s.rb.length ∧
        (∀ (r : Nat) (row : Row), s.rb[r]? = some row → ∃ outRow, out[r]? = some outRow ∧ outRow.length = row.length ∧
          ∀ (x : Nat) (k : ColorIndex), row[x]? = some k → outRow[x]? = s.palette16.toList[k.toNat]?) ∧
        step s = .next { s with pending := q, replies := s.replies ++ [.grid out] })

/-- MAP answers `PALETTE16[c]` (R76) and changes nothing. That the palette it reads is the one latched at BEGIN (R32), in every state and
so before the first BEGIN too, is the model's choice: log entry 16. -/
def Obligations.MapReadsPalette : Prop :=
  ∀ (s : State) (c : ColorIndex) (q : List Request), s.pending = .map c :: q →
    ∃ rgb : Rgb, s.palette16.toList[c.toNat]? = some rgb ∧
      step s = .next { s with pending := q, replies := s.replies ++ [.rgb rgb] }

/-- R111, R115, R117, R118, R127: ENCODE refuses the HIFI variant, answers EncoderShape for another shape, and else answers and
writes `E = reverse(Assemble(RC, OV))`, whose length R118 gives; nothing else changes. That `E` and `C` stand in the state is the model's
choice: log entry 9; so is that the encoder's configuration stands there as supplied: log entry 16. -/
def Obligations.EncodeAssemblesChunks : Prop :=
  ∀ (s : State) (g : Grid) (ov : List Overlay) (q : List Request), s.pending = .encode g ov :: q →
    (s.inputs.encVariant = .hifi →
      step s = .next { s with pending := q, replies := s.replies ++ [.refused .unmodelledConfig] }) ∧
    (s.inputs.encVariant = .fixedMask → ¬ admitted g →
      step s = .next { s with pending := q, replies := s.replies ++ [.error (.encoderShape g.length)] }) ∧
    (s.inputs.encVariant = .fixedMask → admitted g →
      ∃ (e : List Byte) (m : Memory),
        e.reverse = assembled s.inputs.colortPre s.inputs.colortPost ov g ∧
        e.length = 23040 + overlayBytes s.inputs.colortPre s.inputs.colortPost ov ∧
        (∀ a, m.read a = e[a]?) ∧
        step s = .next { s with pending := q, chunks := [], encOut := m, replies := s.replies ++ [.bytes e] })

/-- R112: the quantizer's inputs and results. -/
def Obligations.QuantizerIntervals : Prop :=
  (∀ n, n ≤ 3060 → quant n ≤ 15 ∧ quant n = (n + 102) / 204 ∧ (quant n = 0 ↔ n ≤ 101) ∧ (quant n = 15 ↔ 2958 ≤ n)) ∧
  (∀ n i, n ≤ 3060 → 1 ≤ i → i ≤ 14 → (quant n = i ↔ 204 * i - 102 ≤ n ∧ n ≤ 204 * i + 101)) ∧
  (∀ v, v ≤ 255 → quant (12 * v) = (2 * v + 17) / 34) ∧ (∀ i, i ≤ 15 → quant (12 * (17 * i)) = i)

/-- Supplying the configuration changes what is supplied and nothing that is latched (R32, R145). That the host supplies it by requests
of its own, answered `ack`, is the model's choice: log entry 16. -/
def Obligations.SupplyChangesInputsOnly : Prop :=
  ∀ (s : State) (p : Palette) (m : PalMode) (v : EncVariant) (pre post : List Byte) (q : List Request),
    (s.pending = .supplyPalette p :: q →
      step s = .next { s with pending := q, inputs := { s.inputs with palette16 := p }, replies := s.replies ++ [.ack] }) ∧
    (s.pending = .adjustPalette :: q →
      step s = .next { s with
        pending := q, inputs := { s.inputs with palette16 := Config.adjust s.inputs.palette16 }
        replies := s.replies ++ [.ack] }) ∧
    (s.pending = .supplyPalMode m :: q →
      step s = .next { s with pending := q, inputs := { s.inputs with palMode := m }, replies := s.replies ++ [.ack] }) ∧
    (s.pending = .supplyEncoder v pre post :: q →
      step s = .next { s with
        pending := q, inputs := { s.inputs with encVariant := v, colortPre := pre, colortPost := post }
        replies := s.replies ++ [.ack] })

/-- The round-trip law, which the spec's R119 draws from R96, R113 and R118 and marks as derived. ENCODE of an admitted grid, then RUN of what it answered, ends DONE with all 256 rows, each block's
two quantized colors in place, nothing left unread, no break and one TEXT_OBSERVED per text line (none for `OV = []`), for every
draw; stated for empty COLORT strings. -/
def Obligations.EncodeThenRunRoundTrips : Prop :=
  ∀ (s : State) (g : Grid) (ov : List Overlay),
    admitted g → s.inputs.encVariant = .fixedMask → s.inputs.colortPre = [] → s.inputs.colortPost = [] →
    (∀ cap, s.bufCap = some cap → 23040 + 134 * overlayLines ov ≤ cap) → s.pending = [.encode g ov] →
      ∃ (e : List Byte) (s1 t : State),
        step s = .next s1 ∧ s1.replies = s.replies ++ [.bytes e] ∧
        step { s1 with pending := [.run e] } = .next t ∧
        t.status = .done ∧ t.rows = 256 ∧ t.tail = 0 ∧ t.brkValid = false ∧ t.rb.length = 256 ∧
        t.ev.length = overlayLines ov ∧ (∀ ev ∈ t.ev, ∃ t0 cells, ev = .textObserved t0 cells) ∧
        (∀ r, r < 256 → ∃ row, t.rb[r]? = some row ∧ row.length = 352 ∧
          ∀ j k, j < 44 → k < 4 →
            row[8 * j + k]? = some (blockColor g r (8 * j)) ∧ row[8 * j + 4 + k]? = some (blockColor g r (8 * j + 4)))
end

