-- ==== Sys2Proof/Laws/State.lean ====
section
/-! SUPPORT. One lemma per field per named update of the state, so that no later proof unfolds a record update. -/

namespace Sys2Proof.Machine

-- One proof at a time: proofs elaborated at once would each hold a thread.
set_option Elab.async false

variable (s : State)

/-! ### setBreak -/

@[simp] theorem setBreak_creg : (setBreak s).creg = s.creg := rfl
@[simp] theorem setBreak_prevBg : (setBreak s).prevBg = s.prevBg := rfl
@[simp] theorem setBreak_rows : (setBreak s).rows = s.rows := rfl
@[simp] theorem setBreak_brkValid : (setBreak s).brkValid = true := rfl
@[simp] theorem setBreak_brkRow : (setBreak s).brkRow = s.rows := rfl
@[simp] theorem setBreak_input : (setBreak s).input = s.input := rfl
@[simp] theorem setBreak_len : (setBreak s).len = s.len := rfl
@[simp] theorem setBreak_tail : (setBreak s).tail = s.tail := rfl
@[simp] theorem setBreak_status : (setBreak s).status = s.status := rfl
@[simp] theorem setBreak_faultCode : (setBreak s).faultCode = s.faultCode := rfl
@[simp] theorem setBreak_faultT0 : (setBreak s).faultT0 = s.faultT0 := rfl
@[simp] theorem setBreak_faultCtrl : (setBreak s).faultCtrl = s.faultCtrl := rfl
@[simp] theorem setBreak_faultCol : (setBreak s).faultCol = s.faultCol := rfl
@[simp] theorem setBreak_faultNeed : (setBreak s).faultNeed = s.faultNeed := rfl
@[simp] theorem setBreak_faultHave : (setBreak s).faultHave = s.faultHave := rfl
@[simp] theorem setBreak_rb : (setBreak s).rb = s.rb := rfl
@[simp] theorem setBreak_ev : (setBreak s).ev = s.ev := rfl
@[simp] theorem setBreak_palette16 : (setBreak s).palette16 = s.palette16 := rfl
@[simp] theorem setBreak_palMode : (setBreak s).palMode = s.palMode := rfl
@[simp] theorem setBreak_inputs : (setBreak s).inputs = s.inputs := rfl
@[simp] theorem setBreak_bufCap : (setBreak s).bufCap = s.bufCap := rfl
@[simp] theorem setBreak_chunks : (setBreak s).chunks = s.chunks := rfl
@[simp] theorem setBreak_encOut : (setBreak s).encOut = s.encOut := rfl
@[simp] theorem setBreak_recT0 : (setBreak s).recT0 = s.recT0 := rfl
@[simp] theorem setBreak_draws : (setBreak s).draws = s.draws := rfl
@[simp] theorem setBreak_pending : (setBreak s).pending = s.pending := rfl
@[simp] theorem setBreak_replies : (setBreak s).replies = s.replies := rfl

/-! ### setStatus -/

@[simp] theorem setStatus_creg (st : Status) : (setStatus st s).creg = s.creg := rfl
@[simp] theorem setStatus_prevBg (st : Status) : (setStatus st s).prevBg = s.prevBg := rfl
@[simp] theorem setStatus_rows (st : Status) : (setStatus st s).rows = s.rows := rfl
@[simp] theorem setStatus_brkValid (st : Status) : (setStatus st s).brkValid = s.brkValid := rfl
@[simp] theorem setStatus_brkRow (st : Status) : (setStatus st s).brkRow = s.brkRow := rfl
@[simp] theorem setStatus_input (st : Status) : (setStatus st s).input = s.input := rfl
@[simp] theorem setStatus_len (st : Status) : (setStatus st s).len = s.len := rfl
@[simp] theorem setStatus_tail (st : Status) : (setStatus st s).tail = s.tail := rfl
@[simp] theorem setStatus_status (st : Status) : (setStatus st s).status = st := rfl
@[simp] theorem setStatus_faultCode (st : Status) : (setStatus st s).faultCode = s.faultCode := rfl
@[simp] theorem setStatus_faultT0 (st : Status) : (setStatus st s).faultT0 = s.faultT0 := rfl
@[simp] theorem setStatus_faultCtrl (st : Status) : (setStatus st s).faultCtrl = s.faultCtrl := rfl
@[simp] theorem setStatus_faultCol (st : Status) : (setStatus st s).faultCol = s.faultCol := rfl
@[simp] theorem setStatus_faultNeed (st : Status) : (setStatus st s).faultNeed = s.faultNeed := rfl
@[simp] theorem setStatus_faultHave (st : Status) : (setStatus st s).faultHave = s.faultHave := rfl
@[simp] theorem setStatus_rb (st : Status) : (setStatus st s).rb = s.rb := rfl
@[simp] theorem setStatus_ev (st : Status) : (setStatus st s).ev = s.ev := rfl
@[simp] theorem setStatus_palette16 (st : Status) : (setStatus st s).palette16 = s.palette16 := rfl
@[simp] theorem setStatus_palMode (st : Status) : (setStatus st s).palMode = s.palMode := rfl
@[simp] theorem setStatus_inputs (st : Status) : (setStatus st s).inputs = s.inputs := rfl
@[simp] theorem setStatus_bufCap (st : Status) : (setStatus st s).bufCap = s.bufCap := rfl
@[simp] theorem setStatus_chunks (st : Status) : (setStatus st s).chunks = s.chunks := rfl
@[simp] theorem setStatus_encOut (st : Status) : (setStatus st s).encOut = s.encOut := rfl
@[simp] theorem setStatus_recT0 (st : Status) : (setStatus st s).recT0 = s.recT0 := rfl
@[simp] theorem setStatus_draws (st : Status) : (setStatus st s).draws = s.draws := rfl
@[simp] theorem setStatus_pending (st : Status) : (setStatus st s).pending = s.pending := rfl
@[simp] theorem setStatus_replies (st : Status) : (setStatus st s).replies = s.replies := rfl

/-! ### loadInput -/

@[simp] theorem loadInput_creg (v : List Byte) : (loadInput v s).creg = s.creg := rfl
@[simp] theorem loadInput_prevBg (v : List Byte) : (loadInput v s).prevBg = s.prevBg := rfl
@[simp] theorem loadInput_rows (v : List Byte) : (loadInput v s).rows = s.rows := rfl
@[simp] theorem loadInput_brkValid (v : List Byte) : (loadInput v s).brkValid = s.brkValid := rfl
@[simp] theorem loadInput_brkRow (v : List Byte) : (loadInput v s).brkRow = s.brkRow := rfl
@[simp] theorem loadInput_input (v : List Byte) : (loadInput v s).input = Memory.ofBytes v := rfl
@[simp] theorem loadInput_len (v : List Byte) : (loadInput v s).len = v.length := rfl
@[simp] theorem loadInput_tail (v : List Byte) : (loadInput v s).tail = v.length := rfl
@[simp] theorem loadInput_status (v : List Byte) : (loadInput v s).status = s.status := rfl
@[simp] theorem loadInput_faultCode (v : List Byte) : (loadInput v s).faultCode = s.faultCode := rfl
@[simp] theorem loadInput_faultT0 (v : List Byte) : (loadInput v s).faultT0 = s.faultT0 := rfl
@[simp] theorem loadInput_faultCtrl (v : List Byte) : (loadInput v s).faultCtrl = s.faultCtrl := rfl
@[simp] theorem loadInput_faultCol (v : List Byte) : (loadInput v s).faultCol = s.faultCol := rfl
@[simp] theorem loadInput_faultNeed (v : List Byte) : (loadInput v s).faultNeed = s.faultNeed := rfl
@[simp] theorem loadInput_faultHave (v : List Byte) : (loadInput v s).faultHave = s.faultHave := rfl
@[simp] theorem loadInput_rb (v : List Byte) : (loadInput v s).rb = s.rb := rfl
@[simp] theorem loadInput_ev (v : List Byte) : (loadInput v s).ev = s.ev := rfl
@[simp] theorem loadInput_palette16 (v : List Byte) : (loadInput v s).palette16 = s.palette16 := rfl
@[simp] theorem loadInput_palMode (v : List Byte) : (loadInput v s).palMode = s.palMode := rfl
@[simp] theorem loadInput_inputs (v : List Byte) : (loadInput v s).inputs = s.inputs := rfl
@[simp] theorem loadInput_bufCap (v : List Byte) : (loadInput v s).bufCap = s.bufCap := rfl
@[simp] theorem loadInput_chunks (v : List Byte) : (loadInput v s).chunks = s.chunks := rfl
@[simp] theorem loadInput_encOut (v : List Byte) : (loadInput v s).encOut = s.encOut := rfl
@[simp] theorem loadInput_recT0 (v : List Byte) : (loadInput v s).recT0 = s.recT0 := rfl
@[simp] theorem loadInput_draws (v : List Byte) : (loadInput v s).draws = s.draws := rfl
@[simp] theorem loadInput_pending (v : List Byte) : (loadInput v s).pending = s.pending := rfl
@[simp] theorem loadInput_replies (v : List Byte) : (loadInput v s).replies = s.replies := rfl

/-! ### cregWrite -/

@[simp] theorem cregWrite_creg (i : BitVec 2) (v : ColorIndex) : (cregWrite i v s).creg = s.creg.set i.toNat v i.isLt := rfl
@[simp] theorem cregWrite_prevBg (i : BitVec 2) (v : ColorIndex) : (cregWrite i v s).prevBg = s.prevBg := rfl
@[simp] theorem cregWrite_rows (i : BitVec 2) (v : ColorIndex) : (cregWrite i v s).rows = s.rows := rfl
@[simp] theorem cregWrite_brkValid (i : BitVec 2) (v : ColorIndex) : (cregWrite i v s).brkValid = s.brkValid := rfl
@[simp] theorem cregWrite_brkRow (i : BitVec 2) (v : ColorIndex) : (cregWrite i v s).brkRow = s.brkRow := rfl
@[simp] theorem cregWrite_input (i : BitVec 2) (v : ColorIndex) : (cregWrite i v s).input = s.input := rfl
@[simp] theorem cregWrite_len (i : BitVec 2) (v : ColorIndex) : (cregWrite i v s).len = s.len := rfl
@[simp] theorem cregWrite_tail (i : BitVec 2) (v : ColorIndex) : (cregWrite i v s).tail = s.tail := rfl
@[simp] theorem cregWrite_status (i : BitVec 2) (v : ColorIndex) : (cregWrite i v s).status = s.status := rfl
@[simp] theorem cregWrite_faultCode (i : BitVec 2) (v : ColorIndex) : (cregWrite i v s).faultCode = s.faultCode := rfl
@[simp] theorem cregWrite_faultT0 (i : BitVec 2) (v : ColorIndex) : (cregWrite i v s).faultT0 = s.faultT0 := rfl
@[simp] theorem cregWrite_faultCtrl (i : BitVec 2) (v : ColorIndex) : (cregWrite i v s).faultCtrl = s.faultCtrl := rfl
@[simp] theorem cregWrite_faultCol (i : BitVec 2) (v : ColorIndex) : (cregWrite i v s).faultCol = s.faultCol := rfl
@[simp] theorem cregWrite_faultNeed (i : BitVec 2) (v : ColorIndex) : (cregWrite i v s).faultNeed = s.faultNeed := rfl
@[simp] theorem cregWrite_faultHave (i : BitVec 2) (v : ColorIndex) : (cregWrite i v s).faultHave = s.faultHave := rfl
@[simp] theorem cregWrite_rb (i : BitVec 2) (v : ColorIndex) : (cregWrite i v s).rb = s.rb := rfl
@[simp] theorem cregWrite_ev (i : BitVec 2) (v : ColorIndex) : (cregWrite i v s).ev = s.ev := rfl
@[simp] theorem cregWrite_palette16 (i : BitVec 2) (v : ColorIndex) : (cregWrite i v s).palette16 = s.palette16 := rfl
@[simp] theorem cregWrite_palMode (i : BitVec 2) (v : ColorIndex) : (cregWrite i v s).palMode = s.palMode := rfl
@[simp] theorem cregWrite_inputs (i : BitVec 2) (v : ColorIndex) : (cregWrite i v s).inputs = s.inputs := rfl
@[simp] theorem cregWrite_bufCap (i : BitVec 2) (v : ColorIndex) : (cregWrite i v s).bufCap = s.bufCap := rfl
@[simp] theorem cregWrite_chunks (i : BitVec 2) (v : ColorIndex) : (cregWrite i v s).chunks = s.chunks := rfl
@[simp] theorem cregWrite_encOut (i : BitVec 2) (v : ColorIndex) : (cregWrite i v s).encOut = s.encOut := rfl
@[simp] theorem cregWrite_recT0 (i : BitVec 2) (v : ColorIndex) : (cregWrite i v s).recT0 = s.recT0 := rfl
@[simp] theorem cregWrite_draws (i : BitVec 2) (v : ColorIndex) : (cregWrite i v s).draws = s.draws := rfl
@[simp] theorem cregWrite_pending (i : BitVec 2) (v : ColorIndex) : (cregWrite i v s).pending = s.pending := rfl
@[simp] theorem cregWrite_replies (i : BitVec 2) (v : ColorIndex) : (cregWrite i v s).replies = s.replies := rfl

/-! ### setPrevBg -/

@[simp] theorem setPrevBg_creg (v : ColorIndex) : (setPrevBg v s).creg = s.creg := rfl
@[simp] theorem setPrevBg_prevBg (v : ColorIndex) : (setPrevBg v s).prevBg = v := rfl
@[simp] theorem setPrevBg_rows (v : ColorIndex) : (setPrevBg v s).rows = s.rows := rfl
@[simp] theorem setPrevBg_brkValid (v : ColorIndex) : (setPrevBg v s).brkValid = s.brkValid := rfl
@[simp] theorem setPrevBg_brkRow (v : ColorIndex) : (setPrevBg v s).brkRow = s.brkRow := rfl
@[simp] theorem setPrevBg_input (v : ColorIndex) : (setPrevBg v s).input = s.input := rfl
@[simp] theorem setPrevBg_len (v : ColorIndex) : (setPrevBg v s).len = s.len := rfl
@[simp] theorem setPrevBg_tail (v : ColorIndex) : (setPrevBg v s).tail = s.tail := rfl
@[simp] theorem setPrevBg_status (v : ColorIndex) : (setPrevBg v s).status = s.status := rfl
@[simp] theorem setPrevBg_faultCode (v : ColorIndex) : (setPrevBg v s).faultCode = s.faultCode := rfl
@[simp] theorem setPrevBg_faultT0 (v : ColorIndex) : (setPrevBg v s).faultT0 = s.faultT0 := rfl
@[simp] theorem setPrevBg_faultCtrl (v : ColorIndex) : (setPrevBg v s).faultCtrl = s.faultCtrl := rfl
@[simp] theorem setPrevBg_faultCol (v : ColorIndex) : (setPrevBg v s).faultCol = s.faultCol := rfl
@[simp] theorem setPrevBg_faultNeed (v : ColorIndex) : (setPrevBg v s).faultNeed = s.faultNeed := rfl
@[simp] theorem setPrevBg_faultHave (v : ColorIndex) : (setPrevBg v s).faultHave = s.faultHave := rfl
@[simp] theorem setPrevBg_rb (v : ColorIndex) : (setPrevBg v s).rb = s.rb := rfl
@[simp] theorem setPrevBg_ev (v : ColorIndex) : (setPrevBg v s).ev = s.ev := rfl
@[simp] theorem setPrevBg_palette16 (v : ColorIndex) : (setPrevBg v s).palette16 = s.palette16 := rfl
@[simp] theorem setPrevBg_palMode (v : ColorIndex) : (setPrevBg v s).palMode = s.palMode := rfl
@[simp] theorem setPrevBg_inputs (v : ColorIndex) : (setPrevBg v s).inputs = s.inputs := rfl
@[simp] theorem setPrevBg_bufCap (v : ColorIndex) : (setPrevBg v s).bufCap = s.bufCap := rfl
@[simp] theorem setPrevBg_chunks (v : ColorIndex) : (setPrevBg v s).chunks = s.chunks := rfl
@[simp] theorem setPrevBg_encOut (v : ColorIndex) : (setPrevBg v s).encOut = s.encOut := rfl
@[simp] theorem setPrevBg_recT0 (v : ColorIndex) : (setPrevBg v s).recT0 = s.recT0 := rfl
@[simp] theorem setPrevBg_draws (v : ColorIndex) : (setPrevBg v s).draws = s.draws := rfl
@[simp] theorem setPrevBg_pending (v : ColorIndex) : (setPrevBg v s).pending = s.pending := rfl
@[simp] theorem setPrevBg_replies (v : ColorIndex) : (setPrevBg v s).replies = s.replies := rfl

/-! ### appendRows -/

@[simp] theorem appendRows_creg (row : Row) (k : Nat) : (appendRows row k s).creg = s.creg := rfl
@[simp] theorem appendRows_prevBg (row : Row) (k : Nat) : (appendRows row k s).prevBg = s.prevBg := rfl
@[simp] theorem appendRows_rows (row : Row) (k : Nat) : (appendRows row k s).rows = s.rows + copies k s := rfl
@[simp] theorem appendRows_brkValid (row : Row) (k : Nat) : (appendRows row k s).brkValid = s.brkValid := rfl
@[simp] theorem appendRows_brkRow (row : Row) (k : Nat) : (appendRows row k s).brkRow = s.brkRow := rfl
@[simp] theorem appendRows_input (row : Row) (k : Nat) : (appendRows row k s).input = s.input := rfl
@[simp] theorem appendRows_len (row : Row) (k : Nat) : (appendRows row k s).len = s.len := rfl
@[simp] theorem appendRows_tail (row : Row) (k : Nat) : (appendRows row k s).tail = s.tail := rfl
@[simp] theorem appendRows_status (row : Row) (k : Nat) : (appendRows row k s).status = s.status := rfl
@[simp] theorem appendRows_faultCode (row : Row) (k : Nat) : (appendRows row k s).faultCode = s.faultCode := rfl
@[simp] theorem appendRows_faultT0 (row : Row) (k : Nat) : (appendRows row k s).faultT0 = s.faultT0 := rfl
@[simp] theorem appendRows_faultCtrl (row : Row) (k : Nat) : (appendRows row k s).faultCtrl = s.faultCtrl := rfl
@[simp] theorem appendRows_faultCol (row : Row) (k : Nat) : (appendRows row k s).faultCol = s.faultCol := rfl
@[simp] theorem appendRows_faultNeed (row : Row) (k : Nat) : (appendRows row k s).faultNeed = s.faultNeed := rfl
@[simp] theorem appendRows_faultHave (row : Row) (k : Nat) : (appendRows row k s).faultHave = s.faultHave := rfl
@[simp] theorem appendRows_rb (row : Row) (k : Nat) : (appendRows row k s).rb = s.rb ++ List.replicate (copies k s) row := rfl
@[simp] theorem appendRows_ev (row : Row) (k : Nat) : (appendRows row k s).ev = s.ev := rfl
@[simp] theorem appendRows_palette16 (row : Row) (k : Nat) : (appendRows row k s).palette16 = s.palette16 := rfl
@[simp] theorem appendRows_palMode (row : Row) (k : Nat) : (appendRows row k s).palMode = s.palMode := rfl
@[simp] theorem appendRows_inputs (row : Row) (k : Nat) : (appendRows row k s).inputs = s.inputs := rfl
@[simp] theorem appendRows_bufCap (row : Row) (k : Nat) : (appendRows row k s).bufCap = s.bufCap := rfl
@[simp] theorem appendRows_chunks (row : Row) (k : Nat) : (appendRows row k s).chunks = s.chunks := rfl
@[simp] theorem appendRows_encOut (row : Row) (k : Nat) : (appendRows row k s).encOut = s.encOut := rfl
@[simp] theorem appendRows_recT0 (row : Row) (k : Nat) : (appendRows row k s).recT0 = s.recT0 := rfl
@[simp] theorem appendRows_draws (row : Row) (k : Nat) : (appendRows row k s).draws = s.draws := rfl
@[simp] theorem appendRows_pending (row : Row) (k : Nat) : (appendRows row k s).pending = s.pending := rfl
@[simp] theorem appendRows_replies (row : Row) (k : Nat) : (appendRows row k s).replies = s.replies := rfl

/-! ### emit -/

@[simp] theorem emit_creg (e : Event) : (emit e s).creg = s.creg := rfl
@[simp] theorem emit_prevBg (e : Event) : (emit e s).prevBg = s.prevBg := rfl
@[simp] theorem emit_rows (e : Event) : (emit e s).rows = s.rows := rfl
@[simp] theorem emit_brkValid (e : Event) : (emit e s).brkValid = s.brkValid := rfl
@[simp] theorem emit_brkRow (e : Event) : (emit e s).brkRow = s.brkRow := rfl
@[simp] theorem emit_input (e : Event) : (emit e s).input = s.input := rfl
@[simp] theorem emit_len (e : Event) : (emit e s).len = s.len := rfl
@[simp] theorem emit_tail (e : Event) : (emit e s).tail = s.tail := rfl
@[simp] theorem emit_status (e : Event) : (emit e s).status = s.status := rfl
@[simp] theorem emit_faultCode (e : Event) : (emit e s).faultCode = s.faultCode := rfl
@[simp] theorem emit_faultT0 (e : Event) : (emit e s).faultT0 = s.faultT0 := rfl
@[simp] theorem emit_faultCtrl (e : Event) : (emit e s).faultCtrl = s.faultCtrl := rfl
@[simp] theorem emit_faultCol (e : Event) : (emit e s).faultCol = s.faultCol := rfl
@[simp] theorem emit_faultNeed (e : Event) : (emit e s).faultNeed = s.faultNeed := rfl
@[simp] theorem emit_faultHave (e : Event) : (emit e s).faultHave = s.faultHave := rfl
@[simp] theorem emit_rb (e : Event) : (emit e s).rb = s.rb := rfl
@[simp] theorem emit_ev (e : Event) : (emit e s).ev = s.ev ++ [e] := rfl
@[simp] theorem emit_palette16 (e : Event) : (emit e s).palette16 = s.palette16 := rfl
@[simp] theorem emit_palMode (e : Event) : (emit e s).palMode = s.palMode := rfl
@[simp] theorem emit_inputs (e : Event) : (emit e s).inputs = s.inputs := rfl
@[simp] theorem emit_bufCap (e : Event) : (emit e s).bufCap = s.bufCap := rfl
@[simp] theorem emit_chunks (e : Event) : (emit e s).chunks = s.chunks := rfl
@[simp] theorem emit_encOut (e : Event) : (emit e s).encOut = s.encOut := rfl
@[simp] theorem emit_recT0 (e : Event) : (emit e s).recT0 = s.recT0 := rfl
@[simp] theorem emit_draws (e : Event) : (emit e s).draws = s.draws := rfl
@[simp] theorem emit_pending (e : Event) : (emit e s).pending = s.pending := rfl
@[simp] theorem emit_replies (e : Event) : (emit e s).replies = s.replies := rfl

/-! ### enterFault -/

@[simp] theorem enterFault_creg (c : BitVec 4) (x y : Option Byte) (n h : Nat) : (enterFault c x y n h s).creg = s.creg := rfl
@[simp] theorem enterFault_prevBg (c : BitVec 4) (x y : Option Byte) (n h : Nat) : (enterFault c x y n h s).prevBg = s.prevBg := rfl
@[simp] theorem enterFault_rows (c : BitVec 4) (x y : Option Byte) (n h : Nat) : (enterFault c x y n h s).rows = s.rows := rfl
@[simp] theorem enterFault_brkValid (c : BitVec 4) (x y : Option Byte) (n h : Nat) : (enterFault c x y n h s).brkValid = s.brkValid := rfl
@[simp] theorem enterFault_brkRow (c : BitVec 4) (x y : Option Byte) (n h : Nat) : (enterFault c x y n h s).brkRow = s.brkRow := rfl
@[simp] theorem enterFault_input (c : BitVec 4) (x y : Option Byte) (n h : Nat) : (enterFault c x y n h s).input = s.input := rfl
@[simp] theorem enterFault_len (c : BitVec 4) (x y : Option Byte) (n h : Nat) : (enterFault c x y n h s).len = s.len := rfl
@[simp] theorem enterFault_tail (c : BitVec 4) (x y : Option Byte) (n h : Nat) : (enterFault c x y n h s).tail = s.tail := rfl
@[simp] theorem enterFault_status (c : BitVec 4) (x y : Option Byte) (n h : Nat) : (enterFault c x y n h s).status = .fault := rfl
@[simp] theorem enterFault_faultCode (c : BitVec 4) (x y : Option Byte) (n h : Nat) : (enterFault c x y n h s).faultCode = c := rfl
@[simp] theorem enterFault_faultT0 (c : BitVec 4) (x y : Option Byte) (n h : Nat) : (enterFault c x y n h s).faultT0 = some s.recT0 := rfl
@[simp] theorem enterFault_faultCtrl (c : BitVec 4) (x y : Option Byte) (n h : Nat) : (enterFault c x y n h s).faultCtrl = x := rfl
@[simp] theorem enterFault_faultCol (c : BitVec 4) (x y : Option Byte) (n h : Nat) : (enterFault c x y n h s).faultCol = y := rfl
@[simp] theorem enterFault_faultNeed (c : BitVec 4) (x y : Option Byte) (n h : Nat) : (enterFault c x y n h s).faultNeed = some n := rfl
@[simp] theorem enterFault_faultHave (c : BitVec 4) (x y : Option Byte) (n h : Nat) : (enterFault c x y n h s).faultHave = some h := rfl
@[simp] theorem enterFault_rb (c : BitVec 4) (x y : Option Byte) (n h : Nat) : (enterFault c x y n h s).rb = s.rb := rfl
@[simp] theorem enterFault_ev (c : BitVec 4) (x y : Option Byte) (n h : Nat) : (enterFault c x y n h s).ev = s.ev := rfl
@[simp] theorem enterFault_palette16 (c : BitVec 4) (x y : Option Byte) (n h : Nat) : (enterFault c x y n h s).palette16 = s.palette16 := rfl
@[simp] theorem enterFault_palMode (c : BitVec 4) (x y : Option Byte) (n h : Nat) : (enterFault c x y n h s).palMode = s.palMode := rfl
@[simp] theorem enterFault_inputs (c : BitVec 4) (x y : Option Byte) (n h : Nat) : (enterFault c x y n h s).inputs = s.inputs := rfl
@[simp] theorem enterFault_bufCap (c : BitVec 4) (x y : Option Byte) (n h : Nat) : (enterFault c x y n h s).bufCap = s.bufCap := rfl
@[simp] theorem enterFault_chunks (c : BitVec 4) (x y : Option Byte) (n h : Nat) : (enterFault c x y n h s).chunks = s.chunks := rfl
@[simp] theorem enterFault_encOut (c : BitVec 4) (x y : Option Byte) (n h : Nat) : (enterFault c x y n h s).encOut = s.encOut := rfl
@[simp] theorem enterFault_recT0 (c : BitVec 4) (x y : Option Byte) (n h : Nat) : (enterFault c x y n h s).recT0 = s.recT0 := rfl
@[simp] theorem enterFault_draws (c : BitVec 4) (x y : Option Byte) (n h : Nat) : (enterFault c x y n h s).draws = s.draws := rfl
@[simp] theorem enterFault_pending (c : BitVec 4) (x y : Option Byte) (n h : Nat) : (enterFault c x y n h s).pending = s.pending := rfl
@[simp] theorem enterFault_replies (c : BitVec 4) (x y : Option Byte) (n h : Nat) : (enterFault c x y n h s).replies = s.replies := rfl

/-! ### leaveFault -/

@[simp] theorem leaveFault_creg : (leaveFault s).creg = s.creg := rfl
@[simp] theorem leaveFault_prevBg : (leaveFault s).prevBg = s.prevBg := rfl
@[simp] theorem leaveFault_rows : (leaveFault s).rows = s.rows := rfl
@[simp] theorem leaveFault_brkValid : (leaveFault s).brkValid = s.brkValid := rfl
@[simp] theorem leaveFault_brkRow : (leaveFault s).brkRow = s.brkRow := rfl
@[simp] theorem leaveFault_input : (leaveFault s).input = s.input := rfl
@[simp] theorem leaveFault_len : (leaveFault s).len = s.len := rfl
@[simp] theorem leaveFault_tail : (leaveFault s).tail = s.tail := rfl
@[simp] theorem leaveFault_status : (leaveFault s).status = s.status := rfl
@[simp] theorem leaveFault_faultCode : (leaveFault s).faultCode = 0#4 := rfl
@[simp] theorem leaveFault_faultT0 : (leaveFault s).faultT0 = none := rfl
@[simp] theorem leaveFault_faultCtrl : (leaveFault s).faultCtrl = none := rfl
@[simp] theorem leaveFault_faultCol : (leaveFault s).faultCol = none := rfl
@[simp] theorem leaveFault_faultNeed : (leaveFault s).faultNeed = none := rfl
@[simp] theorem leaveFault_faultHave : (leaveFault s).faultHave = none := rfl
@[simp] theorem leaveFault_rb : (leaveFault s).rb = s.rb := rfl
@[simp] theorem leaveFault_ev : (leaveFault s).ev = s.ev := rfl
@[simp] theorem leaveFault_palette16 : (leaveFault s).palette16 = s.palette16 := rfl
@[simp] theorem leaveFault_palMode : (leaveFault s).palMode = s.palMode := rfl
@[simp] theorem leaveFault_inputs : (leaveFault s).inputs = s.inputs := rfl
@[simp] theorem leaveFault_bufCap : (leaveFault s).bufCap = s.bufCap := rfl
@[simp] theorem leaveFault_chunks : (leaveFault s).chunks = s.chunks := rfl
@[simp] theorem leaveFault_encOut : (leaveFault s).encOut = s.encOut := rfl
@[simp] theorem leaveFault_recT0 : (leaveFault s).recT0 = s.recT0 := rfl
@[simp] theorem leaveFault_draws : (leaveFault s).draws = s.draws := rfl
@[simp] theorem leaveFault_pending : (leaveFault s).pending = s.pending := rfl
@[simp] theorem leaveFault_replies : (leaveFault s).replies = s.replies := rfl

/-! ### setPending -/

@[simp] theorem setPending_creg (q : List Request) : (setPending q s).creg = s.creg := rfl
@[simp] theorem setPending_prevBg (q : List Request) : (setPending q s).prevBg = s.prevBg := rfl
@[simp] theorem setPending_rows (q : List Request) : (setPending q s).rows = s.rows := rfl
@[simp] theorem setPending_brkValid (q : List Request) : (setPending q s).brkValid = s.brkValid := rfl
@[simp] theorem setPending_brkRow (q : List Request) : (setPending q s).brkRow = s.brkRow := rfl
@[simp] theorem setPending_input (q : List Request) : (setPending q s).input = s.input := rfl
@[simp] theorem setPending_len (q : List Request) : (setPending q s).len = s.len := rfl
@[simp] theorem setPending_tail (q : List Request) : (setPending q s).tail = s.tail := rfl
@[simp] theorem setPending_status (q : List Request) : (setPending q s).status = s.status := rfl
@[simp] theorem setPending_faultCode (q : List Request) : (setPending q s).faultCode = s.faultCode := rfl
@[simp] theorem setPending_faultT0 (q : List Request) : (setPending q s).faultT0 = s.faultT0 := rfl
@[simp] theorem setPending_faultCtrl (q : List Request) : (setPending q s).faultCtrl = s.faultCtrl := rfl
@[simp] theorem setPending_faultCol (q : List Request) : (setPending q s).faultCol = s.faultCol := rfl
@[simp] theorem setPending_faultNeed (q : List Request) : (setPending q s).faultNeed = s.faultNeed := rfl
@[simp] theorem setPending_faultHave (q : List Request) : (setPending q s).faultHave = s.faultHave := rfl
@[simp] theorem setPending_rb (q : List Request) : (setPending q s).rb = s.rb := rfl
@[simp] theorem setPending_ev (q : List Request) : (setPending q s).ev = s.ev := rfl
@[simp] theorem setPending_palette16 (q : List Request) : (setPending q s).palette16 = s.palette16 := rfl
@[simp] theorem setPending_palMode (q : List Request) : (setPending q s).palMode = s.palMode := rfl
@[simp] theorem setPending_inputs (q : List Request) : (setPending q s).inputs = s.inputs := rfl
@[simp] theorem setPending_bufCap (q : List Request) : (setPending q s).bufCap = s.bufCap := rfl
@[simp] theorem setPending_chunks (q : List Request) : (setPending q s).chunks = s.chunks := rfl
@[simp] theorem setPending_encOut (q : List Request) : (setPending q s).encOut = s.encOut := rfl
@[simp] theorem setPending_recT0 (q : List Request) : (setPending q s).recT0 = s.recT0 := rfl
@[simp] theorem setPending_draws (q : List Request) : (setPending q s).draws = s.draws := rfl
@[simp] theorem setPending_pending (q : List Request) : (setPending q s).pending = q := rfl
@[simp] theorem setPending_replies (q : List Request) : (setPending q s).replies = s.replies := rfl

/-! ### setTail -/

@[simp] theorem setTail_creg (n : Nat) : (setTail n s).creg = s.creg := rfl
@[simp] theorem setTail_prevBg (n : Nat) : (setTail n s).prevBg = s.prevBg := rfl
@[simp] theorem setTail_rows (n : Nat) : (setTail n s).rows = s.rows := rfl
@[simp] theorem setTail_brkValid (n : Nat) : (setTail n s).brkValid = s.brkValid := rfl
@[simp] theorem setTail_brkRow (n : Nat) : (setTail n s).brkRow = s.brkRow := rfl
@[simp] theorem setTail_input (n : Nat) : (setTail n s).input = s.input := rfl
@[simp] theorem setTail_len (n : Nat) : (setTail n s).len = s.len := rfl
@[simp] theorem setTail_tail (n : Nat) : (setTail n s).tail = n := rfl
@[simp] theorem setTail_status (n : Nat) : (setTail n s).status = s.status := rfl
@[simp] theorem setTail_faultCode (n : Nat) : (setTail n s).faultCode = s.faultCode := rfl
@[simp] theorem setTail_faultT0 (n : Nat) : (setTail n s).faultT0 = s.faultT0 := rfl
@[simp] theorem setTail_faultCtrl (n : Nat) : (setTail n s).faultCtrl = s.faultCtrl := rfl
@[simp] theorem setTail_faultCol (n : Nat) : (setTail n s).faultCol = s.faultCol := rfl
@[simp] theorem setTail_faultNeed (n : Nat) : (setTail n s).faultNeed = s.faultNeed := rfl
@[simp] theorem setTail_faultHave (n : Nat) : (setTail n s).faultHave = s.faultHave := rfl
@[simp] theorem setTail_rb (n : Nat) : (setTail n s).rb = s.rb := rfl
@[simp] theorem setTail_ev (n : Nat) : (setTail n s).ev = s.ev := rfl
@[simp] theorem setTail_palette16 (n : Nat) : (setTail n s).palette16 = s.palette16 := rfl
@[simp] theorem setTail_palMode (n : Nat) : (setTail n s).palMode = s.palMode := rfl
@[simp] theorem setTail_inputs (n : Nat) : (setTail n s).inputs = s.inputs := rfl
@[simp] theorem setTail_bufCap (n : Nat) : (setTail n s).bufCap = s.bufCap := rfl
@[simp] theorem setTail_chunks (n : Nat) : (setTail n s).chunks = s.chunks := rfl
@[simp] theorem setTail_encOut (n : Nat) : (setTail n s).encOut = s.encOut := rfl
@[simp] theorem setTail_recT0 (n : Nat) : (setTail n s).recT0 = s.recT0 := rfl
@[simp] theorem setTail_draws (n : Nat) : (setTail n s).draws = s.draws := rfl
@[simp] theorem setTail_pending (n : Nat) : (setTail n s).pending = s.pending := rfl
@[simp] theorem setTail_replies (n : Nat) : (setTail n s).replies = s.replies := rfl

/-! ### answer -/

@[simp] theorem answer_creg (r : Reply) : (answer r s).creg = s.creg := rfl
@[simp] theorem answer_prevBg (r : Reply) : (answer r s).prevBg = s.prevBg := rfl
@[simp] theorem answer_rows (r : Reply) : (answer r s).rows = s.rows := rfl
@[simp] theorem answer_brkValid (r : Reply) : (answer r s).brkValid = s.brkValid := rfl
@[simp] theorem answer_brkRow (r : Reply) : (answer r s).brkRow = s.brkRow := rfl
@[simp] theorem answer_input (r : Reply) : (answer r s).input = s.input := rfl
@[simp] theorem answer_len (r : Reply) : (answer r s).len = s.len := rfl
@[simp] theorem answer_tail (r : Reply) : (answer r s).tail = s.tail := rfl
@[simp] theorem answer_status (r : Reply) : (answer r s).status = s.status := rfl
@[simp] theorem answer_faultCode (r : Reply) : (answer r s).faultCode = s.faultCode := rfl
@[simp] theorem answer_faultT0 (r : Reply) : (answer r s).faultT0 = s.faultT0 := rfl
@[simp] theorem answer_faultCtrl (r : Reply) : (answer r s).faultCtrl = s.faultCtrl := rfl
@[simp] theorem answer_faultCol (r : Reply) : (answer r s).faultCol = s.faultCol := rfl
@[simp] theorem answer_faultNeed (r : Reply) : (answer r s).faultNeed = s.faultNeed := rfl
@[simp] theorem answer_faultHave (r : Reply) : (answer r s).faultHave = s.faultHave := rfl
@[simp] theorem answer_rb (r : Reply) : (answer r s).rb = s.rb := rfl
@[simp] theorem answer_ev (r : Reply) : (answer r s).ev = s.ev := rfl
@[simp] theorem answer_palette16 (r : Reply) : (answer r s).palette16 = s.palette16 := rfl
@[simp] theorem answer_palMode (r : Reply) : (answer r s).palMode = s.palMode := rfl
@[simp] theorem answer_inputs (r : Reply) : (answer r s).inputs = s.inputs := rfl
@[simp] theorem answer_bufCap (r : Reply) : (answer r s).bufCap = s.bufCap := rfl
@[simp] theorem answer_chunks (r : Reply) : (answer r s).chunks = s.chunks := rfl
@[simp] theorem answer_encOut (r : Reply) : (answer r s).encOut = s.encOut := rfl
@[simp] theorem answer_recT0 (r : Reply) : (answer r s).recT0 = s.recT0 := rfl
@[simp] theorem answer_draws (r : Reply) : (answer r s).draws = s.draws := rfl
@[simp] theorem answer_pending (r : Reply) : (answer r s).pending = s.pending := rfl
@[simp] theorem answer_replies (r : Reply) : (answer r s).replies = s.replies ++ [r] := rfl

/-! ### addChunk -/

@[simp] theorem addChunk_creg (v : List Byte) : (addChunk v s).creg = s.creg := rfl
@[simp] theorem addChunk_prevBg (v : List Byte) : (addChunk v s).prevBg = s.prevBg := rfl
@[simp] theorem addChunk_rows (v : List Byte) : (addChunk v s).rows = s.rows := rfl
@[simp] theorem addChunk_brkValid (v : List Byte) : (addChunk v s).brkValid = s.brkValid := rfl
@[simp] theorem addChunk_brkRow (v : List Byte) : (addChunk v s).brkRow = s.brkRow := rfl
@[simp] theorem addChunk_input (v : List Byte) : (addChunk v s).input = s.input := rfl
@[simp] theorem addChunk_len (v : List Byte) : (addChunk v s).len = s.len := rfl
@[simp] theorem addChunk_tail (v : List Byte) : (addChunk v s).tail = s.tail := rfl
@[simp] theorem addChunk_status (v : List Byte) : (addChunk v s).status = s.status := rfl
@[simp] theorem addChunk_faultCode (v : List Byte) : (addChunk v s).faultCode = s.faultCode := rfl
@[simp] theorem addChunk_faultT0 (v : List Byte) : (addChunk v s).faultT0 = s.faultT0 := rfl
@[simp] theorem addChunk_faultCtrl (v : List Byte) : (addChunk v s).faultCtrl = s.faultCtrl := rfl
@[simp] theorem addChunk_faultCol (v : List Byte) : (addChunk v s).faultCol = s.faultCol := rfl
@[simp] theorem addChunk_faultNeed (v : List Byte) : (addChunk v s).faultNeed = s.faultNeed := rfl
@[simp] theorem addChunk_faultHave (v : List Byte) : (addChunk v s).faultHave = s.faultHave := rfl
@[simp] theorem addChunk_rb (v : List Byte) : (addChunk v s).rb = s.rb := rfl
@[simp] theorem addChunk_ev (v : List Byte) : (addChunk v s).ev = s.ev := rfl
@[simp] theorem addChunk_palette16 (v : List Byte) : (addChunk v s).palette16 = s.palette16 := rfl
@[simp] theorem addChunk_palMode (v : List Byte) : (addChunk v s).palMode = s.palMode := rfl
@[simp] theorem addChunk_inputs (v : List Byte) : (addChunk v s).inputs = s.inputs := rfl
@[simp] theorem addChunk_bufCap (v : List Byte) : (addChunk v s).bufCap = s.bufCap := rfl
@[simp] theorem addChunk_chunks (v : List Byte) : (addChunk v s).chunks = s.chunks ++ v := rfl
@[simp] theorem addChunk_encOut (v : List Byte) : (addChunk v s).encOut = s.encOut := rfl
@[simp] theorem addChunk_recT0 (v : List Byte) : (addChunk v s).recT0 = s.recT0 := rfl
@[simp] theorem addChunk_draws (v : List Byte) : (addChunk v s).draws = s.draws := rfl
@[simp] theorem addChunk_pending (v : List Byte) : (addChunk v s).pending = s.pending := rfl
@[simp] theorem addChunk_replies (v : List Byte) : (addChunk v s).replies = s.replies := rfl

/-! ### clearChunks -/

@[simp] theorem clearChunks_creg : (clearChunks s).creg = s.creg := rfl
@[simp] theorem clearChunks_prevBg : (clearChunks s).prevBg = s.prevBg := rfl
@[simp] theorem clearChunks_rows : (clearChunks s).rows = s.rows := rfl
@[simp] theorem clearChunks_brkValid : (clearChunks s).brkValid = s.brkValid := rfl
@[simp] theorem clearChunks_brkRow : (clearChunks s).brkRow = s.brkRow := rfl
@[simp] theorem clearChunks_input : (clearChunks s).input = s.input := rfl
@[simp] theorem clearChunks_len : (clearChunks s).len = s.len := rfl
@[simp] theorem clearChunks_tail : (clearChunks s).tail = s.tail := rfl
@[simp] theorem clearChunks_status : (clearChunks s).status = s.status := rfl
@[simp] theorem clearChunks_faultCode : (clearChunks s).faultCode = s.faultCode := rfl
@[simp] theorem clearChunks_faultT0 : (clearChunks s).faultT0 = s.faultT0 := rfl
@[simp] theorem clearChunks_faultCtrl : (clearChunks s).faultCtrl = s.faultCtrl := rfl
@[simp] theorem clearChunks_faultCol : (clearChunks s).faultCol = s.faultCol := rfl
@[simp] theorem clearChunks_faultNeed : (clearChunks s).faultNeed = s.faultNeed := rfl
@[simp] theorem clearChunks_faultHave : (clearChunks s).faultHave = s.faultHave := rfl
@[simp] theorem clearChunks_rb : (clearChunks s).rb = s.rb := rfl
@[simp] theorem clearChunks_ev : (clearChunks s).ev = s.ev := rfl
@[simp] theorem clearChunks_palette16 : (clearChunks s).palette16 = s.palette16 := rfl
@[simp] theorem clearChunks_palMode : (clearChunks s).palMode = s.palMode := rfl
@[simp] theorem clearChunks_inputs : (clearChunks s).inputs = s.inputs := rfl
@[simp] theorem clearChunks_bufCap : (clearChunks s).bufCap = s.bufCap := rfl
@[simp] theorem clearChunks_chunks : (clearChunks s).chunks = [] := rfl
@[simp] theorem clearChunks_encOut : (clearChunks s).encOut = s.encOut := rfl
@[simp] theorem clearChunks_recT0 : (clearChunks s).recT0 = s.recT0 := rfl
@[simp] theorem clearChunks_draws : (clearChunks s).draws = s.draws := rfl
@[simp] theorem clearChunks_pending : (clearChunks s).pending = s.pending := rfl
@[simp] theorem clearChunks_replies : (clearChunks s).replies = s.replies := rfl

/-! ### setOutput -/

@[simp] theorem setOutput_creg (v : List Byte) : (setOutput v s).creg = s.creg := rfl
@[simp] theorem setOutput_prevBg (v : List Byte) : (setOutput v s).prevBg = s.prevBg := rfl
@[simp] theorem setOutput_rows (v : List Byte) : (setOutput v s).rows = s.rows := rfl
@[simp] theorem setOutput_brkValid (v : List Byte) : (setOutput v s).brkValid = s.brkValid := rfl
@[simp] theorem setOutput_brkRow (v : List Byte) : (setOutput v s).brkRow = s.brkRow := rfl
@[simp] theorem setOutput_input (v : List Byte) : (setOutput v s).input = s.input := rfl
@[simp] theorem setOutput_len (v : List Byte) : (setOutput v s).len = s.len := rfl
@[simp] theorem setOutput_tail (v : List Byte) : (setOutput v s).tail = s.tail := rfl
@[simp] theorem setOutput_status (v : List Byte) : (setOutput v s).status = s.status := rfl
@[simp] theorem setOutput_faultCode (v : List Byte) : (setOutput v s).faultCode = s.faultCode := rfl
@[simp] theorem setOutput_faultT0 (v : List Byte) : (setOutput v s).faultT0 = s.faultT0 := rfl
@[simp] theorem setOutput_faultCtrl (v : List Byte) : (setOutput v s).faultCtrl = s.faultCtrl := rfl
@[simp] theorem setOutput_faultCol (v : List Byte) : (setOutput v s).faultCol = s.faultCol := rfl
@[simp] theorem setOutput_faultNeed (v : List Byte) : (setOutput v s).faultNeed = s.faultNeed := rfl
@[simp] theorem setOutput_faultHave (v : List Byte) : (setOutput v s).faultHave = s.faultHave := rfl
@[simp] theorem setOutput_rb (v : List Byte) : (setOutput v s).rb = s.rb := rfl
@[simp] theorem setOutput_ev (v : List Byte) : (setOutput v s).ev = s.ev := rfl
@[simp] theorem setOutput_palette16 (v : List Byte) : (setOutput v s).palette16 = s.palette16 := rfl
@[simp] theorem setOutput_palMode (v : List Byte) : (setOutput v s).palMode = s.palMode := rfl
@[simp] theorem setOutput_inputs (v : List Byte) : (setOutput v s).inputs = s.inputs := rfl
@[simp] theorem setOutput_bufCap (v : List Byte) : (setOutput v s).bufCap = s.bufCap := rfl
@[simp] theorem setOutput_chunks (v : List Byte) : (setOutput v s).chunks = s.chunks := rfl
@[simp] theorem setOutput_encOut (v : List Byte) : (setOutput v s).encOut = Memory.ofBytes v := rfl
@[simp] theorem setOutput_recT0 (v : List Byte) : (setOutput v s).recT0 = s.recT0 := rfl
@[simp] theorem setOutput_draws (v : List Byte) : (setOutput v s).draws = s.draws := rfl
@[simp] theorem setOutput_pending (v : List Byte) : (setOutput v s).pending = s.pending := rfl
@[simp] theorem setOutput_replies (v : List Byte) : (setOutput v s).replies = s.replies := rfl

/-! ### supply -/

@[simp] theorem supply_creg (f : Inputs) : (supply f s).creg = s.creg := rfl
@[simp] theorem supply_prevBg (f : Inputs) : (supply f s).prevBg = s.prevBg := rfl
@[simp] theorem supply_rows (f : Inputs) : (supply f s).rows = s.rows := rfl
@[simp] theorem supply_brkValid (f : Inputs) : (supply f s).brkValid = s.brkValid := rfl
@[simp] theorem supply_brkRow (f : Inputs) : (supply f s).brkRow = s.brkRow := rfl
@[simp] theorem supply_input (f : Inputs) : (supply f s).input = s.input := rfl
@[simp] theorem supply_len (f : Inputs) : (supply f s).len = s.len := rfl
@[simp] theorem supply_tail (f : Inputs) : (supply f s).tail = s.tail := rfl
@[simp] theorem supply_status (f : Inputs) : (supply f s).status = s.status := rfl
@[simp] theorem supply_faultCode (f : Inputs) : (supply f s).faultCode = s.faultCode := rfl
@[simp] theorem supply_faultT0 (f : Inputs) : (supply f s).faultT0 = s.faultT0 := rfl
@[simp] theorem supply_faultCtrl (f : Inputs) : (supply f s).faultCtrl = s.faultCtrl := rfl
@[simp] theorem supply_faultCol (f : Inputs) : (supply f s).faultCol = s.faultCol := rfl
@[simp] theorem supply_faultNeed (f : Inputs) : (supply f s).faultNeed = s.faultNeed := rfl
@[simp] theorem supply_faultHave (f : Inputs) : (supply f s).faultHave = s.faultHave := rfl
@[simp] theorem supply_rb (f : Inputs) : (supply f s).rb = s.rb := rfl
@[simp] theorem supply_ev (f : Inputs) : (supply f s).ev = s.ev := rfl
@[simp] theorem supply_palette16 (f : Inputs) : (supply f s).palette16 = s.palette16 := rfl
@[simp] theorem supply_palMode (f : Inputs) : (supply f s).palMode = s.palMode := rfl
@[simp] theorem supply_inputs (f : Inputs) : (supply f s).inputs = f := rfl
@[simp] theorem supply_bufCap (f : Inputs) : (supply f s).bufCap = s.bufCap := rfl
@[simp] theorem supply_chunks (f : Inputs) : (supply f s).chunks = s.chunks := rfl
@[simp] theorem supply_encOut (f : Inputs) : (supply f s).encOut = s.encOut := rfl
@[simp] theorem supply_recT0 (f : Inputs) : (supply f s).recT0 = s.recT0 := rfl
@[simp] theorem supply_draws (f : Inputs) : (supply f s).draws = s.draws := rfl
@[simp] theorem supply_pending (f : Inputs) : (supply f s).pending = s.pending := rfl
@[simp] theorem supply_replies (f : Inputs) : (supply f s).replies = s.replies := rfl

/-! ### latchT0 -/

@[simp] theorem latchT0_creg : (latchT0 s).creg = s.creg := rfl
@[simp] theorem latchT0_prevBg : (latchT0 s).prevBg = s.prevBg := rfl
@[simp] theorem latchT0_rows : (latchT0 s).rows = s.rows := rfl
@[simp] theorem latchT0_brkValid : (latchT0 s).brkValid = s.brkValid := rfl
@[simp] theorem latchT0_brkRow : (latchT0 s).brkRow = s.brkRow := rfl
@[simp] theorem latchT0_input : (latchT0 s).input = s.input := rfl
@[simp] theorem latchT0_len : (latchT0 s).len = s.len := rfl
@[simp] theorem latchT0_tail : (latchT0 s).tail = s.tail := rfl
@[simp] theorem latchT0_status : (latchT0 s).status = s.status := rfl
@[simp] theorem latchT0_faultCode : (latchT0 s).faultCode = s.faultCode := rfl
@[simp] theorem latchT0_faultT0 : (latchT0 s).faultT0 = s.faultT0 := rfl
@[simp] theorem latchT0_faultCtrl : (latchT0 s).faultCtrl = s.faultCtrl := rfl
@[simp] theorem latchT0_faultCol : (latchT0 s).faultCol = s.faultCol := rfl
@[simp] theorem latchT0_faultNeed : (latchT0 s).faultNeed = s.faultNeed := rfl
@[simp] theorem latchT0_faultHave : (latchT0 s).faultHave = s.faultHave := rfl
@[simp] theorem latchT0_rb : (latchT0 s).rb = s.rb := rfl
@[simp] theorem latchT0_ev : (latchT0 s).ev = s.ev := rfl
@[simp] theorem latchT0_palette16 : (latchT0 s).palette16 = s.palette16 := rfl
@[simp] theorem latchT0_palMode : (latchT0 s).palMode = s.palMode := rfl
@[simp] theorem latchT0_inputs : (latchT0 s).inputs = s.inputs := rfl
@[simp] theorem latchT0_bufCap : (latchT0 s).bufCap = s.bufCap := rfl
@[simp] theorem latchT0_chunks : (latchT0 s).chunks = s.chunks := rfl
@[simp] theorem latchT0_encOut : (latchT0 s).encOut = s.encOut := rfl
@[simp] theorem latchT0_recT0 : (latchT0 s).recT0 = s.tail := rfl
@[simp] theorem latchT0_draws : (latchT0 s).draws = s.draws := rfl
@[simp] theorem latchT0_pending : (latchT0 s).pending = s.pending := rfl
@[simp] theorem latchT0_replies : (latchT0 s).replies = s.replies := rfl

/-! ### finish -/

@[simp] theorem finish_creg : (finish s).creg = s.creg := rfl
@[simp] theorem finish_prevBg : (finish s).prevBg = s.prevBg := rfl
@[simp] theorem finish_rows : (finish s).rows = s.rows := rfl
@[simp] theorem finish_brkValid : (finish s).brkValid = s.brkValid := rfl
@[simp] theorem finish_brkRow : (finish s).brkRow = s.brkRow := rfl
@[simp] theorem finish_input : (finish s).input = s.input := rfl
@[simp] theorem finish_len : (finish s).len = s.len := rfl
@[simp] theorem finish_tail : (finish s).tail = s.tail := rfl
@[simp] theorem finish_status : (finish s).status = .done := rfl
@[simp] theorem finish_faultCode : (finish s).faultCode = s.faultCode := rfl
@[simp] theorem finish_faultT0 : (finish s).faultT0 = s.faultT0 := rfl
@[simp] theorem finish_faultCtrl : (finish s).faultCtrl = s.faultCtrl := rfl
@[simp] theorem finish_faultCol : (finish s).faultCol = s.faultCol := rfl
@[simp] theorem finish_faultNeed : (finish s).faultNeed = s.faultNeed := rfl
@[simp] theorem finish_faultHave : (finish s).faultHave = s.faultHave := rfl
@[simp] theorem finish_rb : (finish s).rb = if s.brkValid then s.rb.drop s.brkRow ++ s.rb.take s.brkRow else s.rb := rfl
@[simp] theorem finish_ev : (finish s).ev = s.ev := rfl
@[simp] theorem finish_palette16 : (finish s).palette16 = s.palette16 := rfl
@[simp] theorem finish_palMode : (finish s).palMode = s.palMode := rfl
@[simp] theorem finish_inputs : (finish s).inputs = s.inputs := rfl
@[simp] theorem finish_bufCap : (finish s).bufCap = s.bufCap := rfl
@[simp] theorem finish_chunks : (finish s).chunks = s.chunks := rfl
@[simp] theorem finish_encOut : (finish s).encOut = s.encOut := rfl
@[simp] theorem finish_recT0 : (finish s).recT0 = s.recT0 := rfl
@[simp] theorem finish_draws : (finish s).draws = s.draws := rfl
@[simp] theorem finish_pending : (finish s).pending = s.pending := rfl
@[simp] theorem finish_replies : (finish s).replies = s.replies := rfl

/-! ### resetBlock -/

@[simp] theorem resetBlock_creg : (resetBlock s).creg = Config.cregReset := rfl
@[simp] theorem resetBlock_prevBg : (resetBlock s).prevBg = Config.prevBgAfterReset s.draws := rfl
@[simp] theorem resetBlock_rows : (resetBlock s).rows = 0 := rfl
@[simp] theorem resetBlock_brkValid : (resetBlock s).brkValid = false := rfl
@[simp] theorem resetBlock_brkRow : (resetBlock s).brkRow = (Config.brkRowUnset s.draws).val := rfl
@[simp] theorem resetBlock_input : (resetBlock s).input = s.input := rfl
@[simp] theorem resetBlock_len : (resetBlock s).len = s.len := rfl
@[simp] theorem resetBlock_tail : (resetBlock s).tail = s.tail := rfl
@[simp] theorem resetBlock_status : (resetBlock s).status = .idle := rfl
@[simp] theorem resetBlock_faultCode : (resetBlock s).faultCode = 0#4 := rfl
@[simp] theorem resetBlock_faultT0 : (resetBlock s).faultT0 = none := rfl
@[simp] theorem resetBlock_faultCtrl : (resetBlock s).faultCtrl = none := rfl
@[simp] theorem resetBlock_faultCol : (resetBlock s).faultCol = none := rfl
@[simp] theorem resetBlock_faultNeed : (resetBlock s).faultNeed = none := rfl
@[simp] theorem resetBlock_faultHave : (resetBlock s).faultHave = none := rfl
@[simp] theorem resetBlock_rb : (resetBlock s).rb = [] := rfl
@[simp] theorem resetBlock_ev : (resetBlock s).ev = [] := rfl
@[simp] theorem resetBlock_palette16 : (resetBlock s).palette16 = s.palette16 := rfl
@[simp] theorem resetBlock_palMode : (resetBlock s).palMode = s.palMode := rfl
@[simp] theorem resetBlock_inputs : (resetBlock s).inputs = s.inputs := rfl
@[simp] theorem resetBlock_bufCap : (resetBlock s).bufCap = s.bufCap := rfl
@[simp] theorem resetBlock_chunks : (resetBlock s).chunks = s.chunks := rfl
@[simp] theorem resetBlock_encOut : (resetBlock s).encOut = s.encOut := rfl
@[simp] theorem resetBlock_recT0 : (resetBlock s).recT0 = s.recT0 := rfl
@[simp] theorem resetBlock_draws : (resetBlock s).draws = s.draws + 1 := rfl
@[simp] theorem resetBlock_pending : (resetBlock s).pending = s.pending := rfl
@[simp] theorem resetBlock_replies : (resetBlock s).replies = s.replies := rfl

/-! ### beginBlock -/

@[simp] theorem beginBlock_creg (v : List Byte) : (beginBlock v s).creg = Config.cregReset := rfl
@[simp] theorem beginBlock_prevBg (v : List Byte) : (beginBlock v s).prevBg = Config.prevBgReset s.draws := rfl
@[simp] theorem beginBlock_rows (v : List Byte) : (beginBlock v s).rows = 0 := rfl
@[simp] theorem beginBlock_brkValid (v : List Byte) : (beginBlock v s).brkValid = false := rfl
@[simp] theorem beginBlock_brkRow (v : List Byte) : (beginBlock v s).brkRow = (Config.brkRowUnset s.draws).val := rfl
@[simp] theorem beginBlock_input (v : List Byte) : (beginBlock v s).input = Memory.ofBytes v := rfl
@[simp] theorem beginBlock_len (v : List Byte) : (beginBlock v s).len = v.length := rfl
@[simp] theorem beginBlock_tail (v : List Byte) : (beginBlock v s).tail = v.length := rfl
@[simp] theorem beginBlock_status (v : List Byte) : (beginBlock v s).status = .running := rfl
@[simp] theorem beginBlock_faultCode (v : List Byte) : (beginBlock v s).faultCode = 0#4 := rfl
@[simp] theorem beginBlock_faultT0 (v : List Byte) : (beginBlock v s).faultT0 = none := rfl
@[simp] theorem beginBlock_faultCtrl (v : List Byte) : (beginBlock v s).faultCtrl = none := rfl
@[simp] theorem beginBlock_faultCol (v : List Byte) : (beginBlock v s).faultCol = none := rfl
@[simp] theorem beginBlock_faultNeed (v : List Byte) : (beginBlock v s).faultNeed = none := rfl
@[simp] theorem beginBlock_faultHave (v : List Byte) : (beginBlock v s).faultHave = none := rfl
@[simp] theorem beginBlock_rb (v : List Byte) : (beginBlock v s).rb = [] := rfl
@[simp] theorem beginBlock_ev (v : List Byte) : (beginBlock v s).ev = [] := rfl
@[simp] theorem beginBlock_palette16 (v : List Byte) : (beginBlock v s).palette16 = s.inputs.palette16 := rfl
@[simp] theorem beginBlock_palMode (v : List Byte) : (beginBlock v s).palMode = s.inputs.palMode := rfl
@[simp] theorem beginBlock_inputs (v : List Byte) : (beginBlock v s).inputs = s.inputs := rfl
@[simp] theorem beginBlock_bufCap (v : List Byte) : (beginBlock v s).bufCap = s.bufCap := rfl
@[simp] theorem beginBlock_chunks (v : List Byte) : (beginBlock v s).chunks = s.chunks := rfl
@[simp] theorem beginBlock_encOut (v : List Byte) : (beginBlock v s).encOut = s.encOut := rfl
@[simp] theorem beginBlock_recT0 (v : List Byte) : (beginBlock v s).recT0 = s.recT0 := rfl
@[simp] theorem beginBlock_draws (v : List Byte) : (beginBlock v s).draws = s.draws + 1 := rfl
@[simp] theorem beginBlock_pending (v : List Byte) : (beginBlock v s).pending = s.pending := rfl
@[simp] theorem beginBlock_replies (v : List Byte) : (beginBlock v s).replies = s.replies := rfl

end Sys2Proof.Machine
end

