-- ==== Sys2Proof/Laws/Memory.lean ====
section
/-! SUPPORT. The input memory: what it reads, that every memory operation keeps the canonical form, and what TAKE and PEEK can do. -/

namespace Sys2Proof.Machine

-- One proof at a time: proofs elaborated at once would each hold a thread.
set_option Elab.async false

@[simp] theorem Memory.ofBytesFrom_nil (a : Nat) : Memory.ofBytesFrom a [] = [] := rfl

@[simp] theorem Memory.ofBytesFrom_cons (a : Nat) (v : Byte) (bs : List Byte) :
    Memory.ofBytesFrom a (v :: bs) = (a, v) :: Memory.ofBytesFrom (a + 1) bs := rfl

theorem Memory.ofBytesFrom_fst (bs : List Byte) (a : Nat) :
    (Memory.ofBytesFrom a bs).map Prod.fst = List.range' a bs.length := by
  induction bs generalizing a with
  | nil => rfl
  | cons v bs ih => simp [List.range'_succ, ih]

theorem Memory.ofBytesFrom_snd (bs : List Byte) (a : Nat) : (Memory.ofBytesFrom a bs).map Prod.snd = bs := by
  induction bs generalizing a with
  | nil => rfl
  | cons v bs ih => simp [ih]

/-- The bytes loaded, read back in memory order. -/
@[simp] theorem Memory.ofBytes_snd (bs : List Byte) : (Memory.ofBytes bs).map Prod.snd = bs :=
  Memory.ofBytesFrom_snd bs 0

@[simp] theorem Memory.ofBytes_length (bs : List Byte) : (Memory.ofBytes bs).length = bs.length := by
  have h := congrArg List.length (Memory.ofBytes_snd bs)
  rwa [List.length_map] at h

/-- The bytes loaded stand at addresses `0..len-1`. -/
theorem Memory.ofBytes_dense (bs : List Byte) : (Memory.ofBytes bs).dense bs.length := by
  rw [Memory.dense, List.range_eq_range']
  exact Memory.ofBytesFrom_fst bs 0

/-- A dense memory has the canonical form. -/
theorem Memory.wf_of_dense {m : Memory} {n : Nat} (h : m.dense n) : Memory.wf m = true := by
  have hp : (m.map Prod.fst).Pairwise (· < ·) := h ▸ List.pairwise_lt_range
  simpa [Memory.wf, List.pairwise_map] using hp

/-- Writing a whole memory leaves it in the canonical form. -/
theorem Memory.ofBytes_wf (bs : List Byte) : Memory.wf (Memory.ofBytes bs) = true :=
  Memory.wf_of_dense (Memory.ofBytes_dense bs)

/-- A memory whose addresses run up from `k` reads, at address `k + i`, its `i`-th byte. -/
theorem Memory.read_of_range' {m : Memory} {k n : Nat} (h : m.map Prod.fst = List.range' k n) (i : Nat) :
    Memory.read m (k + i) = (m.map Prod.snd)[i]? := by
  induction m generalizing k n i with
  | nil => rfl
  | cons c m ih =>
    cases n with
    | zero => simp at h
    | succ n =>
      obtain ⟨rfl, h'⟩ : c.1 = k ∧ m.map Prod.fst = List.range' (k + 1) n := by
        simpa [List.range'_succ] using h
      cases i with
      | zero => simp [Memory.read]
      | succ i =>
        have hne : c.1 ≠ c.1 + (i + 1) := by omega
        have := ih h' i
        simp only [Memory.read, hne, if_false, List.map_cons, List.getElem?_cons_succ]
        rw [show c.1 + (i + 1) = c.1 + 1 + i by omega, this]

/-- A dense memory reads, at address `a`, its `a`-th byte; no byte at an address that does not exist. -/
theorem Memory.read_of_dense {m : Memory} {n : Nat} (h : m.dense n) (a : Nat) :
    Memory.read m a = (m.map Prod.snd)[a]? := by
  simpa using Memory.read_of_range' (k := 0) (by rw [h, List.range_eq_range']) a

/-- What LOAD leaves: address `a` holds the `a`-th byte. -/
@[simp] theorem Memory.read_ofBytes (bs : List Byte) (a : Nat) : Memory.read (Memory.ofBytes bs) a = bs[a]? := by
  rw [Memory.read_of_dense (Memory.ofBytes_dense bs), Memory.ofBytes_snd]

theorem Memory.dense_length {m : Memory} {n : Nat} (h : m.dense n) : m.length = n := by
  simpa using congrArg List.length h

/-- `MemRead` on a dense memory is the slice of its bytes (R41). -/
theorem Memory.readRange_of_dense {m : Memory} {l : Nat} (h : m.dense l) {a n : Nat} (hb : a + n ≤ l) :
    Memory.readRange m a n = some (((m.map Prod.snd).drop a).take n) := by
  induction n generalizing a with
  | zero => simp [Memory.readRange]
  | succ n ih =>
    have hlen : (m.map Prod.snd).length = l := by simpa using Memory.dense_length h
    have ha : a < (m.map Prod.snd).length := by omega
    rw [Memory.readRange, Memory.read_of_dense h, ih (by omega), List.getElem?_eq_getElem ha,
      ← List.getElem_cons_drop ha, List.take_succ_cons]

theorem memRead_of_dense {s : State} (h : s.input.dense s.len) {a n : Nat} (hb : a + n ≤ s.len) :
    memRead s a n = some (((inputBytes s).drop a).take n) := by
  simp [memRead, hb, Memory.readRange_of_dense h hb, inputBytes]

/-- All a TAKE can do on a dense input: ShortBuffer with nothing consumed, or the last `n` bytes in memory order (R84). -/
theorem takeBytes_of_dense {s : State} (h : s.input.dense s.len) (ht : s.tail ≤ s.len) (n : Nat) :
    takeBytes n s =
      if s.tail < n then .short n s.tail
      else .taken (((inputBytes s).drop (s.tail - n)).take n) (setTail (s.tail - n) s) := by
  unfold takeBytes
  split
  · rfl
  · rw [memRead_of_dense h (by omega)]

theorem Memory.readRange_length {m : Memory} {a n : Nat} {v : List Byte} (h : Memory.readRange m a n = some v) :
    v.length = n := by
  induction n generalizing a v with
  | zero => cases h; rfl
  | succ n ih =>
    rw [Memory.readRange] at h
    split at h
    · rename_i h2
      cases h
      simp [ih h2]
    · cases h

/-- If TAKE takes, it takes `n` bytes (R84). -/
theorem takeBytes_length {s s1 : State} {n : Nat} {v : List Byte} (h : takeBytes n s = .taken v s1) : v.length = n := by
  unfold takeBytes at h
  split at h
  · cases h
  · split at h
    · rename_i hr
      cases h
      unfold memRead at hr
      split at hr
      · exact Memory.readRange_length hr
      · cases hr
    · cases h

/-- If TAKE takes, the state it leaves differs in `T` alone, which is lower by `n` (R84). -/
theorem takeBytes_taken {s s1 : State} {n : Nat} {v : List Byte} (h : takeBytes n s = .taken v s1) :
    n ≤ s.tail ∧ s1 = (setTail (s.tail - n) s) := by
  unfold takeBytes at h
  split at h
  · cases h
  · split at h
    · cases h; exact ⟨by omega, rfl⟩
    · cases h

/-- If TAKE is short, fewer bytes remain than asked for (R122). -/
theorem takeBytes_short {s : State} {n need have_ : Nat} (h : takeBytes n s = .short need have_) :
    s.tail < n ∧ need = n ∧ have_ = s.tail := by
  unfold takeBytes at h
  split at h
  · cases h; exact ⟨by assumption, rfl, rfl⟩
  · split at h <;> cases h

/-- PEEK on a dense input: the last `min(n, T)` bytes, in memory order (R85). -/
theorem peekBytes_of_dense {s : State} (h : s.input.dense s.len) (ht : s.tail ≤ s.len) (n : Nat) :
    peekBytes n s = some (((inputBytes s).drop (s.tail - n)).take (min n s.tail)) := by
  unfold peekBytes
  rw [memRead_of_dense h (by omega)]
  congr 3
  omega

/-- An input fits exactly when it is no longer than `BUF_CAP`, if there is one (R82, D17). -/
theorem fits_iff {s : State} {bytes : List Byte} :
    fits s bytes = true ↔ ∀ cap, s.bufCap = some cap → bytes.length ≤ cap := by
  cases hc : s.bufCap <;> simp [fits, hc]

end Sys2Proof.Machine
end

