-- ==== Sys2Proof/Laws/Driver.lean ====
section
/-! SUPPORT. The record step in terms of what is still to be read: TAKE in read order (R42, R83), the front end of R90 against
`decode`, and STEP at the loop test. -/

namespace Sys2Proof.Machine

-- One proof at a time: proofs elaborated at once would each hold a thread.
set_option Elab.async false

theorem inputBytes_length {s : State} (h : s.input.dense s.len) : (inputBytes s).length = s.len := by
  rw [inputBytes, List.length_map]; exact Memory.dense_length h

theorem unread_length {s : State} (h : inputOk s) : (unread s).length = s.tail := by
  have := inputBytes_length h.1
  have := h.2
  simp [unread]; omega

/-- TAKE in terms of what is still to be read, in read order (R83, R84). -/
theorem takeBytes_unread {s : State} (h : inputOk s) {n : Nat} (hn : n ≤ s.tail) :
    ∃ v, takeBytes n s = .taken v (setTail (s.tail - n) s) ∧ v.reverse = (unread s).take n ∧
      unread (setTail (s.tail - n) s) = (unread s).drop n := by
  have hl := inputBytes_length h.1
  have ht := h.2
  refine ⟨_, by rw [takeBytes_of_dense h.1 h.2, if_neg (by omega)], ?_, ?_⟩
  · rw [unread, List.take_reverse]
    congr 1
    rw [List.length_take, List.drop_take]
    congr 1
    · omega
    · congr 1; omega
  · show ((inputBytes s).take (s.tail - n)).reverse = _
    rw [unread, List.drop_reverse]
    congr 1
    rw [List.length_take, List.take_take]
    congr 1
    omega

theorem inputOk_take {s : State} (h : inputOk s) (n : Nat) : inputOk (setTail (s.tail - n) s) :=
  ⟨h.1, by have := h.2; show s.tail - n ≤ s.len; omega⟩

theorem take1 {s : State} (h : inputOk s) {b : Byte} {rest : List Byte} (hu : unread s = b :: rest) :
    takeBytes 1 s = .taken [b] (setTail rest.length s) ∧ inputOk (setTail rest.length s) ∧
      unread (setTail rest.length s) = rest ∧ s.tail = rest.length + 1 := by
  have hl := unread_length h
  rw [hu] at hl
  have hl' : s.tail = rest.length + 1 := by simpa using hl.symm
  obtain ⟨v, h1, h2, h3⟩ := takeBytes_unread h (n := 1) (by omega)
  have e : s.tail - 1 = rest.length := by omega
  rw [e] at h1 h3
  rw [hu] at h2 h3
  have hv : v = [b] := by
    have := congrArg List.reverse h2
    simpa using this
  subst hv
  refine ⟨h1, ?_, by simpa using h3, hl'⟩
  rw [← e]; exact inputOk_take h 1

theorem recordBody_spec {s : State} (h : inputOk s) (ctrl col : Byte) :
    recordBody ctrl col s =
      match decode s.ctx (ctrl :: col :: unread s) with
      | .ok (i, left) => exec i (setTail left.length s)
      | .error (.shortPayload need have_) => .next (enterFault codeShortBuffer (some ctrl) (some col) need have_ s)
      | .error _ => .fault .inputAddress := by
  have hl := unread_length h
  simp only [recordBody, decode]
  cases plen ctrl col with
  | none => simp only [hl]; rfl
  | some n =>
    simp only
    by_cases hn : s.tail < n
    · rw [takeBytes_of_dense h.1 h.2, if_pos hn, hl, if_pos hn]
    · obtain ⟨v, h1, h2, h3⟩ := takeBytes_unread h (n := n) (by omega)
      rw [h1, if_neg (by omega)]
      simp only [h2, List.length_drop, hl]
      rfl

theorem recordStep_spec {s : State} (h : inputOk s) (ht : 0 < s.tail) :
    recordStep s =
      match decode s.ctx (unread s) with
      | .ok (i, left) => exec i (setTail left.length (latchT0 s))
      | .error .noControl => .fault .inputAddress
      | .error .noColor => .next (enterFault codeShortBuffer (unread s)[0]? none 1 0 (setTail 0 (latchT0 s)))
      | .error (.shortPayload need have_) =>
        .next (enterFault codeShortBuffer (unread s)[0]? (unread s)[1]? need have_
          (setTail (s.tail - 2) (latchT0 s))) := by
  have hi : inputOk (latchT0 s) := h
  have hu' : unread (latchT0 s) = unread s := rfl
  match hu : unread s with
  | [] => have := unread_length h; rw [hu] at this; simp at this; omega
  | [b] =>
    obtain ⟨h1, h2, h3, h4⟩ := take1 hi (hu'.trans hu)
    simp only [recordStep, h1, recordColor, List.headD_cons]
    rw [takeBytes_of_dense h2.1 h2.2, if_pos (by simp)]
    rfl
  | b :: c :: rest =>
    obtain ⟨h1, h2, h3, h4⟩ := take1 hi (hu'.trans hu)
    obtain ⟨h5, h6, h7, h8⟩ := take1 h2 h3
    simp only [recordStep, h1, recordColor, List.headD_cons, h5]
    rw [recordBody_spec h6, h7]
    have hx : s.tail - 2 = rest.length := by
      have : (latchT0 s).tail = s.tail := rfl
      simp at h4; omega
    have hc : State.ctx (setTail rest.length (setTail (c :: rest).length (latchT0 s))) = s.ctx := rfl
    rw [hc, hx]
    cases hd : decode s.ctx (b :: c :: rest) with
    | ok r => rfl
    | error e =>
      cases e with
      | noControl => rfl
      | noColor => simp only [decode] at hd; split at hd <;> (try cases hd); split at hd <;> cases hd
      | shortPayload => rfl

theorem passOver_atRecord {s : State} (h : atRecord s) : passOver s = false := by
  obtain ⟨-, h1, h2⟩ := h
  simp [passOver]; omega

theorem driverStep_atRecord {s : State} (h : atRecord s) : driverStep s = recordStep s := by
  simp [driverStep, h.1, passOver_atRecord h]

end Sys2Proof.Machine
end

