-- ==== Sys2Proof/Laws/Encoder.lean ====
section
/-! SUPPORT. The encoder's byte formats (R113, R114): their lengths and their bytes by position; what emitting a list of items does; the grid check. -/

namespace Sys2Proof.Machine

-- One proof at a time: proofs elaborated at once would each hold a thread.
set_option Elab.async false

theorem flatMap_pair_length {α} (l : List α) (f : α → List Byte) (h : ∀ a, (f a).length = 2) : (l.flatMap f).length = 2 * l.length := by
  induction l with
  | nil => rfl
  | cons a l ih => simp [h, ih]; omega

/-- A RowChunk is 90 bytes (R113). -/
theorem rowChunk_length (g) : (rowChunk g).length = 90 := by
  unfold rowChunk
  simp only [List.length_cons]
  rw [flatMap_pair_length _ _ (by simp)]; simp

/-- A text field is 66 bytes (R114). -/
theorem lineField_length (t) : (lineField t).length = 66 := by
  simp [lineField]; omega

/-- A TextLineChunk is 134 bytes (R114). -/
theorem textLineChunk_length (t) : (textLineChunk t).length = 134 := by
  unfold textLineChunk
  simp only [List.length_cons]
  rw [flatMap_pair_length _ _ (by simp), lineField_length]

theorem pixel_sum (q : Pixel) (h : q.length = 3) :
    (q.map BitVec.toNat).sum = ((List.range 3).map fun ch => (q.getD ch 0#8).toNat).sum := by
  match q, h with
  | [a, b, c], _ => rfl

theorem take4_drop (g : ImageRow) (c : Nat) (h : c + 4 ≤ g.length) :
    (g.drop c).take 4 = (List.range 4).map fun k => g.getD (c + k) [] := by
  apply List.ext_getElem?
  intro i
  by_cases hi : i < 4
  · have hlt : c + i < g.length := by omega
    rw [List.getElem?_take_of_lt hi, List.getElem?_drop, List.getElem?_map, List.getElem?_range hi,
      List.getElem?_eq_getElem hlt]
    show _ = some (g.getD (c + i) [])
    rw [List.getD_eq_getElem?_getD, List.getElem?_eq_getElem hlt]; rfl
  · rw [List.getElem?_eq_none, List.getElem?_eq_none]
    · simp; omega
    · simp; omega

/-- The samples of 4 pixels of a row, summed, are the samples of the grid by position (R112). -/
theorem sampleSum_eq (g : Grid) (r : Nat) (row : ImageRow) (hr : g[r]? = some row) (hq : ∀ q ∈ row, q.length = 3) (c : Nat)
    (h : c + 4 ≤ row.length) : sampleSum ((row.drop c).take 4) = sampleSum12 g r c := by
  unfold sampleSum sampleSum12
  rw [take4_drop row c h, List.map_map]
  congr 1
  apply List.map_congr_left
  intro k hk
  have hk4 : k < 4 := by simpa using hk
  have hrow : g.getD r [] = row := by rw [List.getD_eq_getElem?_getD, hr]; rfl
  show ((row.getD (c + k) []).map BitVec.toNat).sum = _
  have hlen : (row.getD (c + k) []).length = 3 := by
    rw [List.getD_eq_getElem?_getD, List.getElem?_eq_getElem (by omega : c + k < row.length)]
    exact hq _ (List.getElem_mem _)
  rw [pixel_sum _ hlen]
  simp only [sample, hrow]

theorem flatMap_pair_get (n : Nat) (f f' : Nat → Byte) (j : Nat) (hj : j < n) :
   ((List.range n).flatMap fun j => [f j, f' j])[2 * j]? = some (f j) ∧ ((List.range n).flatMap fun j => [f j, f' j])[2 * j + 1]? = some (f' j) := by
  have key : ∀ (l : List Nat) i (hi : i < l.length), (l.flatMap fun j => [f j, f' j])[2*i]? = some (f l[i]) ∧ (l.flatMap fun j => [f j, f' j])[2*i+1]? = some (f' l[i]) := by
    intro l
    induction l with
    | nil => intro i hi; simp at hi
    | cons a l ih =>
      intro i hi
      cases i with
      | zero => simp
      | succ i =>
        have := ih i (by simpa using hi)
        rw [show 2 * (i+1) = 2*i+2 by ring]
        simpa using this
  have h := key (List.range n) j (by simpa using hj)
  rwa [List.getElem_range] at h

theorem nibbles (a b : ColorIndex) : a ++ b = BitVec.ofNat 8 (16 * a.toNat + b.toNat) := by revert a b; decide

/-- The pair of block `j` of a RowChunk: the mask, then foreground and background (R113). -/
theorem rowChunk_get (g : Grid) (r : Nat) (row : ImageRow) (hr : g[r]? = some row) (hw : row.length = 352) (hq : ∀ q ∈ row, q.length = 3)
    (j : Nat) (hj : j < 44) : (rowChunk row)[2 + 2 * j]? = some 0xF0#8 ∧
      (rowChunk row)[3 + 2 * j]? = some (BitVec.ofNat 8 (16 * (blockColor g r (8 * j)).toNat + (blockColor g r (8 * j + 4)).toNat)) := by
  have e : ∀ k, (rowChunk row)[2 + k]? = ((List.range 44).flatMap fun j => [Config.encMask, blockFg row j ++ blockBg row j])[k]? := by
    intro k; rw [Nat.add_comm]; rfl
  have := flatMap_pair_get 44 (fun _ => Config.encMask) (fun j => blockFg row j ++ blockBg row j) j hj
  rw [e, show 3 + 2 * j = 2 + (2 * j + 1) by ring, e, this.1, this.2]
  refine ⟨rfl, ?_⟩
  have hf : blockFg row j = blockColor g r (8 * j) := by
    unfold blockFg blockColor quant; rw [sampleSum_eq g r row hr hq _ (by omega)]
  have hb : blockBg row j = blockColor g r (8 * j + 4) := by
    unfold blockBg blockColor quant; rw [sampleSum_eq g r row hr hq _ (by omega)]
  rw [nibbles, hf, hb]

/-- The bytes of one item of the assembly (R118). -/
def EncItem.bytes : EncItem → List Byte
  | .row g => rowChunk g
  | .text t => textLineChunk t
  | .raw b => b

/-- All that emitting items does: their bytes go to the end of `C`, in order (R118). -/
theorem emitItems_bytes (is : List EncItem) (s : State) : emitItems is s = .next (addChunk (is.flatMap EncItem.bytes) s) := by
  induction is generalizing s with
  | nil => simp [emitItems, addChunk]
  | cons i is ih =>
    have : emitItem i s = .next (addChunk i.bytes s) := by cases i <;> rfl
    rw [emitItems, this, andThen, ih]; simp [addChunk]

theorem blockItems_bytes (pre post : List Byte) (o : Overlay) : (blockItems pre post o).flatMap EncItem.bytes = blockChunk pre post o := by
  have : ∀ l : List (List Byte), (l.map EncItem.text).flatMap EncItem.bytes = l.flatMap textLineChunk := by
    intro l; rw [List.flatMap_map]; rfl
  simp only [blockItems, blockChunk, List.flatMap_cons, List.flatMap_append, this, List.flatMap_nil, EncItem.bytes, List.append_nil, List.append_assoc]

theorem blocksAt_bytes (pre post : List Byte) (ov : List Overlay) (r : Nat) :
    (blocksAt pre post ov r).flatMap EncItem.bytes = (ov.filter fun o => o.pos.val == r).flatMap (blockChunk pre post) := by
  rw [blocksAt, List.flatMap_assoc]
  congr 1; funext o; exact blockItems_bytes pre post o

/-- ENCODE's check is exactly R111's shape. -/
theorem gridOk_iff (g : Grid) : gridOk g = true ↔ admitted g := by
  simp [gridOk, admitted, Config.encRows, Config.width]

end Sys2Proof.Machine
end

