-- ==== Sys2Proof/Laws/Header.lean ====
section
/-! SUPPORT. Header bytes: what each match of the opcode map (R65) says of the fields, and that fields and bytes determine each
other. -/

namespace Sys2Proof

-- One proof at a time: proofs elaborated at once would each hold a thread.
set_option Elab.async false

/-- Two 16-bit words made of bytes are equal when both bytes are. -/
theorem append_inj (a c b d : Byte) : a ++ b = c ++ d ↔ a = c ∧ b = d := by
  constructor
  · intro h
    have hb : ∀ i, (a ++ b).getLsbD i = (c ++ d).getLsbD i := fun i => by rw [h]
    constructor
    · apply BitVec.eq_of_getLsbD_eq
      intro i hi
      have := hb (i + 8)
      rw [BitVec.getLsbD_append, BitVec.getLsbD_append, if_neg (by omega), if_neg (by omega)] at this
      simpa using this
    · apply BitVec.eq_of_getLsbD_eq
      intro i hi
      have := hb i
      rwa [BitVec.getLsbD_append, BitVec.getLsbD_append, if_pos hi, if_pos hi] at this
  · rintro ⟨rfl, rfl⟩
    rfl

theorem and_append (a c b d : Byte) : (a ++ b) &&& (c ++ d) = (a &&& c) ++ (b &&& d) := by
  apply BitVec.eq_of_getLsbD_eq
  intro i _
  simp only [BitVec.getLsbD_and, BitVec.getLsbD_append]
  split <;> rfl

/-- A match on the header word is a match on the control byte and one on the color byte. -/
theorem hits_bytes (ctrl col mc mo kc ko : Byte) :
    hits (headerWord ctrl col) (mc ++ mo) (kc ++ ko) = decide (ctrl &&& mc = kc ∧ col &&& mo = ko) := by
  rw [hits, headerWord, and_append, Bool.eq_iff_iff]
  simp [append_inj]

/-- The header word 0x3088 and the like, by its bytes. -/
theorem headerWord_eq (ctrl col kc ko : Byte) : headerWord ctrl col = kc ++ ko ↔ ctrl = kc ∧ col = ko :=
  append_inj ctrl kc col ko

/-! ### The rows of the map, by fields -/

theorem hits_unkmodeR0 (ctrl col : Byte) : hits (headerWord ctrl col) 0x7040#16 0x4040#16 =
    decide ((dispOf ctrl = 1#2 ∨ dispOf ctrl = 3#2) ∧ resOf ctrl = 0#2 ∧ nucOf col = true) := by
  have h := hits_bytes ctrl col 0x70#8 0x40#8 0x40#8 0x40#8
  have h1 : ∀ c : Byte, c &&& 0x70#8 = 0x40#8 ↔ (dispOf c = 1#2 ∨ dispOf c = 3#2) ∧ resOf c = 0#2 := by decide
  have h2 : ∀ c : Byte, c &&& 0x40#8 = 0x40#8 ↔ nucOf c = true := by decide
  simp only [h1, h2, and_assoc] at h
  exact h

theorem hits_unkmodeR1 (ctrl col : Byte) : hits (headerWord ctrl col) 0x7040#16 0x5040#16 =
    decide ((dispOf ctrl = 1#2 ∨ dispOf ctrl = 3#2) ∧ resOf ctrl = 1#2 ∧ nucOf col = true) := by
  have h := hits_bytes ctrl col 0x70#8 0x40#8 0x50#8 0x40#8
  have h1 : ∀ c : Byte, c &&& 0x70#8 = 0x50#8 ↔ (dispOf c = 1#2 ∨ dispOf c = 3#2) ∧ resOf c = 1#2 := by decide
  have h2 : ∀ c : Byte, c &&& 0x40#8 = 0x40#8 ↔ nucOf c = true := by decide
  simp only [h1, h2, and_assoc] at h
  exact h

theorem hits_unkmodeR2 (ctrl col : Byte) : hits (headerWord ctrl col) 0x7040#16 0x6040#16 =
    decide ((dispOf ctrl = 1#2 ∨ dispOf ctrl = 3#2) ∧ resOf ctrl = 2#2 ∧ nucOf col = true) := by
  have h := hits_bytes ctrl col 0x70#8 0x40#8 0x60#8 0x40#8
  have h1 : ∀ c : Byte, c &&& 0x70#8 = 0x60#8 ↔ (dispOf c = 1#2 ∨ dispOf c = 3#2) ∧ resOf c = 2#2 := by decide
  have h2 : ∀ c : Byte, c &&& 0x40#8 = 0x40#8 ↔ nucOf c = true := by decide
  simp only [h1, h2, and_assoc] at h
  exact h

theorem hits_textmark (ctrl col : Byte) : hits (headerWord ctrl col) 0xFF00#16 0x7A00#16 = decide (ctrl = 0x7A#8) := by
  have h := hits_bytes ctrl col 0xFF#8 0x00#8 0x7A#8 0x00#8
  have h1 : ∀ c : Byte, c &&& 0xFF#8 = 0x7A#8 ↔ c = 0x7A#8 := by decide
  have h2 : ∀ c : Byte, c &&& 0x00#8 = 0x00#8 ↔ True := by decide
  simp only [h1, h2, and_true] at h
  exact h

theorem hits_brk (ctrl col : Byte) :
    hits (headerWord ctrl col) 0xFFFF#16 Config.brkHeader = decide (ctrl = 0x30#8 ∧ col = 0x88#8) := by
  have h := hits_bytes ctrl col 0xFF#8 0xFF#8 0x30#8 0x88#8
  have h1 : ∀ c : Byte, c &&& 0xFF#8 = 0x30#8 ↔ c = 0x30#8 := by decide
  have h2 : ∀ c : Byte, c &&& 0xFF#8 = 0x88#8 ↔ c = 0x88#8 := by decide
  simp only [h1, h2] at h
  exact h

theorem hits_gfx4 (ctrl col : Byte) :
    hits (headerWord ctrl col) 0xC040#16 0x0040#16 = decide (dispOf ctrl = 0#2 ∧ nucOf col = true) := by
  have h := hits_bytes ctrl col 0xC0#8 0x40#8 0x00#8 0x40#8
  have h1 : ∀ c : Byte, c &&& 0xC0#8 = 0x00#8 ↔ dispOf c = 0#2 := by decide
  have h2 : ∀ c : Byte, c &&& 0x40#8 = 0x40#8 ↔ nucOf c = true := by decide
  simp only [h1, h2] at h
  exact h

theorem hits_gfx16 (ctrl col : Byte) :
    hits (headerWord ctrl col) 0xC040#16 0x8040#16 = decide (dispOf ctrl = 2#2 ∧ nucOf col = true) := by
  have h := hits_bytes ctrl col 0xC0#8 0x40#8 0x80#8 0x40#8
  have h1 : ∀ c : Byte, c &&& 0xC0#8 = 0x80#8 ↔ dispOf c = 2#2 := by decide
  have h2 : ∀ c : Byte, c &&& 0x40#8 = 0x40#8 ↔ nucOf c = true := by decide
  simp only [h1, h2] at h
  exact h

theorem hits_graphics (ctrl col : Byte) : hits (headerWord ctrl col) 0x4040#16 0x0040#16 =
    decide ((dispOf ctrl = 0#2 ∨ dispOf ctrl = 2#2) ∧ nucOf col = true) := by
  have h := hits_bytes ctrl col 0x40#8 0x40#8 0x00#8 0x40#8
  have h1 : ∀ c : Byte, c &&& 0x40#8 = 0x00#8 ↔ dispOf c = 0#2 ∨ dispOf c = 2#2 := by decide
  have h2 : ∀ c : Byte, c &&& 0x40#8 = 0x40#8 ↔ nucOf c = true := by decide
  simp only [h1, h2] at h
  exact h

theorem hits_skip00 (ctrl col : Byte) :
    hits (headerWord ctrl col) 0xFFFF#16 0x0000#16 = decide (ctrl = 0x00#8 ∧ col = 0x00#8) := by
  have h := hits_bytes ctrl col 0xFF#8 0xFF#8 0x00#8 0x00#8
  have h1 : ∀ c : Byte, c &&& 0xFF#8 = 0x00#8 ↔ c = 0x00#8 := by decide
  simp only [h1] at h
  exact h

theorem hits_skipff (ctrl col : Byte) :
    hits (headerWord ctrl col) 0xFFFF#16 0xFFFF#16 = decide (ctrl = 0xFF#8 ∧ col = 0xFF#8) := by
  have h := hits_bytes ctrl col 0xFF#8 0xFF#8 0xFF#8 0xFF#8
  have h1 : ∀ c : Byte, c &&& 0xFF#8 = 0xFF#8 ↔ c = 0xFF#8 := by decide
  simp only [h1] at h
  exact h

theorem hits_skipunit (ctrl col : Byte) :
    hits (headerWord ctrl col) 0x0040#16 0x0000#16 = decide (nucOf col = false) := by
  have h := hits_bytes ctrl col 0x00#8 0x40#8 0x00#8 0x00#8
  have h1 : ∀ c : Byte, c &&& 0x00#8 = 0x00#8 ↔ True := by decide
  have h2 : ∀ c : Byte, c &&& 0x40#8 = 0x00#8 ↔ nucOf c = false := by decide
  simp only [h1, h2, true_and] at h
  exact h

/-! ### Fields and bytes -/

@[simp] theorem dispOf_ctrlByte (d r : BitVec 2) (k : BitVec 4) : dispOf (ctrlByte d r k) = d := by
  revert d r k; decide
@[simp] theorem resOf_ctrlByte (d r : BitVec 2) (k : BitVec 4) : resOf (ctrlByte d r k) = r := by
  revert d r k; decide
@[simp] theorem repOf_ctrlByte (d r : BitVec 2) (k : BitVec 4) : repOf (ctrlByte d r k) = k := by
  revert d r k; decide
@[simp] theorem enOf_colByte (e n : Bool) (r : BitVec 2) (v : ColorIndex) : enOf (colByte e n r v) = e := by
  revert e n r v; decide
@[simp] theorem nucOf_colByte (e n : Bool) (r : BitVec 2) (v : ColorIndex) : nucOf (colByte e n r v) = n := by
  revert e n r v; decide
@[simp] theorem cregOf_colByte (e n : Bool) (r : BitVec 2) (v : ColorIndex) : cregOf (colByte e n r v) = r := by
  revert e n r v; decide
@[simp] theorem cselOf_colByte (e n : Bool) (r : BitVec 2) (v : ColorIndex) : cselOf (colByte e n r v) = v := by
  revert e n r v; decide

/-- A control byte is made of its fields. -/
@[simp] theorem ctrlByte_fields (ctrl : Byte) : ctrlByte (dispOf ctrl) (resOf ctrl) (repOf ctrl) = ctrl := by
  revert ctrl; decide
/-- A color byte is made of its fields. -/
@[simp] theorem colByte_fields (col : Byte) : colByte (enOf col) (nucOf col) (cregOf col) (cselOf col) = col := by
  revert col; decide

theorem ctrlByte_ne_text (r : BitVec 2) (k : BitVec 4) : ctrlByte 0#2 r k ≠ 0x7A#8 ∧ ctrlByte 2#2 r k ≠ 0x7A#8 := by
  revert r k; decide

/-- A 2-bit field has one of four values. -/
theorem bits2_cases (v : BitVec 2) : v = 0#2 ∨ v = 1#2 ∨ v = 2#2 ∨ v = 3#2 := by
  revert v; decide

/-! ### Payload lengths (R60, R61) -/

theorem plen_marker {ctrl col : Byte} (h : nucOf col = false) : plen ctrl col = some 2 := by
  simp [plen, h]

theorem plen_graphics {ctrl col : Byte} (h : nucOf col = true) (hd : dispOf ctrl = 0#2 ∨ dispOf ctrl = 2#2) :
    plen ctrl col = some (cols (resOf ctrl) / 8 * 2) := by
  simp [plen, h, hd]

/-- The length is UNKNOWN exactly for a text header with `nuc = 1` and a resolution other than 3 (R61). -/
theorem plen_eq_none {ctrl col : Byte} : plen ctrl col = none ↔
    nucOf col = true ∧ (dispOf ctrl = 1#2 ∨ dispOf ctrl = 3#2) ∧ resOf ctrl ≠ 3#2 := by
  unfold plen
  rcases bits2_cases (dispOf ctrl) with h | h | h | h <;> cases hn : nucOf col <;> simp [h]

/-- Every payload length is one of R46's. -/
theorem plen_mem {ctrl col : Byte} {n : Nat} (h : plen ctrl col = some n) : n ∈ [2, 22, 44, 88, 132] := by
  unfold plen cols at h
  rcases bits2_cases (resOf ctrl) with hr | hr | hr | hr <;> simp [hr] at h <;> split at h <;>
    first
      | simp_all; done
      | split at h <;> simp_all

end Sys2Proof
end

