-- ==== Sys2Proof/Laws/Graphics.lean ====
section
/-! SUPPORT. The graphics rows: their lengths (R98), their pixels by position (R95, R96), what a GFX16 row carries forward (R143), and everything that a graphics meaning can do. -/

namespace Sys2Proof.Machine

-- One proof at a time: proofs elaborated at once would each hold a thread.
set_option Elab.async false

/-! ### Lengths -/

theorem gfx4Pair_length (creg : Vector ColorIndex 4) (m : Nat) (hi lo : Byte) : (gfx4Pair creg m hi lo).length = 8 * m := by
  simp [gfx4Pair, bitOrder]; omega

/-- A GFX4 row has 8 pixels per pair, each `m` times (R95). -/
theorem gfx4Row_length (creg : Vector ColorIndex 4) (m : Nat) (p : List Byte) :
    (gfx4Row creg m p).length = p.length / 2 * (8 * m) := by
  induction p using gfx4Row.induct with
  | case1 => simp [gfx4Row]
  | case2 => simp [gfx4Row]
  | case3 hi lo p ih =>
    rw [gfx4Row, List.length_append, gfx4Pair_length, ih]
    simp only [List.length_cons]
    rw [show (p.length + 1 + 1) / 2 = p.length / 2 + 1 by omega]
    ring

theorem gfx16Bits_length (m : Nat) (hi lo : Byte) (bs : List Nat) (prev : ColorIndex) :
    (gfx16Bits m hi lo prev bs).length = bs.length * m := by
  induction bs generalizing prev with
  | nil => simp [gfx16Bits]
  | cons b bs ih => simp [gfx16Bits, ih]; ring

/-- A GFX16 row has 8 pixels per pair, each `m` times (R96). -/
theorem gfx16Row_length (m : Nat) (prev : ColorIndex) (p : List Byte) :
    (gfx16Row m prev p).length = p.length / 2 * (8 * m) := by
  induction prev, p using gfx16Row.induct with
  | case1 => simp [gfx16Row]
  | case2 => simp [gfx16Row]
  | case3 prev hi lo p ih =>
    rw [gfx16Row, List.length_append, gfx16Bits_length, ih]
    simp only [List.length_cons, bitOrder, List.length_nil]
    rw [show (p.length + 1 + 1) / 2 = p.length / 2 + 1 by omega]
    ring

/-- A payload of the right length makes a row of exactly 352 pixels at res 0, 1, 2 (R98). -/
theorem width_of_mult {res : BitVec 2} {m n : Nat} (hm : mult res = some m) (hn : n = cols res / 8 * 2) :
    n / 2 * (8 * m) = 352 := by
  rcases bits2_cases res with h | h | h | h <;> subst h <;> simp_all [mult, cols] <;> subst hm <;> rfl

/-! ### Everything that a graphics meaning can do -/

theorem finishRow_width {row : Row} (h : row.length = Config.width) (ctrl col : Byte) (rep : BitVec 4) (s : State) :
    finishRow ctrl col rep row s = .next (appendRows row (rep.toNat + 1) s) := by
  simp [finishRow, h]

/-- All CheckWidth with AppendRows can do (R98, R100). -/
theorem finishRow_cases {ctrl col : Byte} {rep : BitVec 4} {row : Row} {s t : State} (h : finishRow ctrl col rep row s = .next t) :
    (row.length = Config.width ∧ t = appendRows row (rep.toNat + 1) s) ∨
    (row.length ≠ Config.width ∧ t = enterFault codeRowWidthMismatch (some ctrl) (some col) Config.width row.length s) := by
  unfold finishRow at h
  split at h
  · cases h; exact .inl ⟨by assumption, rfl⟩
  · cases h; exact .inr ⟨by assumption, rfl⟩

theorem finishRow_next (ctrl col : Byte) (rep : BitVec 4) (row : Row) (s : State) : ∃ t, finishRow ctrl col rep row s = .next t := by
  unfold finishRow; split <;> exact ⟨_, rfl⟩

/-- GFX4 on a payload of its own length: the fault at res 3, else the register write and the rows (R95). -/
theorem execGfx4_wf {res : BitVec 2} {rep : BitVec 4} {en : Bool} {creg : BitVec 2} {csel : ColorIndex} {p : List Byte}
    (hw : (Instr.gfx4 res rep en creg csel p).wf = true) (s : State) :
    execGfx4 res rep en creg csel p s =
      match mult res with
      | none => noMultiplier (ctrlByte 0#2 res rep) (colByte en true creg csel) res s
      | some m =>
        let s1 := if cregWriteOn en s then cregWrite creg csel s else s
        .next (appendRows (gfx4Row s1.creg m p) (rep.toNat + 1) s1) := by
  simp only [Instr.wf, beq_iff_eq] at hw
  unfold execGfx4
  cases hm : mult res with
  | none => rfl
  | some m =>
    simp only
    rw [finishRow_width]
    rw [gfx4Row_length]
    exact width_of_mult hm hw

/-- GFX16 on a payload of its own length: the fault at res 3, else `PREVBG` and the rows (R96). -/
theorem execGfx16_wf {res : BitVec 2} {rep : BitVec 4} {en : Bool} {creg : BitVec 2} {csel : ColorIndex} {p : List Byte}
    (hw : (Instr.gfx16 res rep en creg csel p).wf = true) (s : State) :
    execGfx16 res rep en creg csel p s =
      match mult res with
      | none => noMultiplier (ctrlByte 2#2 res rep) (colByte en true creg csel) res s
      | some m => .next (appendRows (gfx16Row m s.prevBg p) (rep.toNat + 1) (setPrevBg (prevAfterRow s.prevBg p) s)) := by
  simp only [Instr.wf, beq_iff_eq] at hw
  unfold execGfx16
  cases hm : mult res with
  | none => rfl
  | some m =>
    simp only
    rw [finishRow_width]
    rw [gfx16Row_length]
    exact width_of_mult hm hw

/-- All a GFX4 meaning can do, on any payload. -/
theorem execGfx4_cases {res : BitVec 2} {rep : BitVec 4} {en : Bool} {creg : BitVec 2} {csel : ColorIndex} {p : List Byte} {s t : State}
    (h : execGfx4 res rep en creg csel p s = .next t) :
    ∃ s1, (s1 = s ∨ (en = true ∧ s.brkValid = false ∧ s1 = cregWrite creg csel s)) ∧
     ((∃ c x y n k, t = enterFault c x y n k s1) ∨ ∃ row k, t = appendRows row k s1) := by
  unfold execGfx4 at h
  cases hm : mult res with
  | none => rw [hm] at h; simp only [noMultiplier] at h; cases h; exact ⟨s, .inl rfl, .inl ⟨_, _, _, _, _, rfl⟩⟩
  | some m =>
    rw [hm] at h
    simp only at h
    refine ⟨if cregWriteOn en s = true then cregWrite creg csel s else s, ?_, ?_⟩
    rotate_left
    · rcases finishRow_cases h with ⟨-, rfl⟩ | ⟨-, rfl⟩
      · exact .inr ⟨_, _, rfl⟩
      · exact .inl ⟨_, _, _, _, _, rfl⟩
    · split
      · rename_i hc; simp [cregWriteOn] at hc; exact .inr ⟨hc.1, hc.2, rfl⟩
      · exact .inl rfl

/-- All a GFX16 meaning can do, on any payload. -/
theorem execGfx16_cases {res : BitVec 2} {rep : BitVec 4} {en : Bool} {creg : BitVec 2} {csel : ColorIndex} {p : List Byte} {s t : State}
    (h : execGfx16 res rep en creg csel p s = .next t) :
    ∃ s1, (s1 = s ∨ (∃ v, s1 = setPrevBg v s)) ∧
     ((∃ c x y n k, t = enterFault c x y n k s1) ∨ ∃ row k, t = appendRows row k s1) := by
  unfold execGfx16 at h
  cases hm : mult res with
  | none => rw [hm] at h; simp only [noMultiplier] at h; cases h; exact ⟨s, .inl rfl, .inl ⟨_, _, _, _, _, rfl⟩⟩
  | some m =>
    rw [hm] at h
    simp only at h
    refine ⟨setPrevBg (prevAfterRow s.prevBg p) s, .inr ⟨_, rfl⟩, ?_⟩
    rcases finishRow_cases h with ⟨-, rfl⟩ | ⟨-, rfl⟩
    · exact .inr ⟨_, _, rfl⟩
    · exact .inl ⟨_, _, _, _, _, rfl⟩

/-! ### Pixels by position -/

theorem flatMap_replicate_get {α β : Type} (f : α → β) (m : Nat) (hm : 0 < m) (l : List α) (x : Nat) :
    (l.flatMap fun b => List.replicate m (f b))[x]? = l[x / m]?.map f := by
  induction l generalizing x with
  | nil => simp
  | cons b l ih =>
    rw [List.flatMap_cons]
    by_cases hx : x < m
    · rw [List.getElem?_append_left (by simpa using hx), List.getElem?_replicate, if_pos hx, Nat.div_eq_of_lt hx]; rfl
    · rw [List.getElem?_append_right (by simpa using hx), List.length_replicate, ih]
      have : x / m = (x - m) / m + 1 := by
        rw [Nat.div_eq_sub_div hm (by omega)]
      rw [this, List.getElem?_cons_succ]

theorem bitOrder_get (k : Nat) (h : k < 8) : bitOrder[k]? = some (7 - k) := by
  revert k; decide

theorem hiBit_cons (a b : Byte) (p : List Byte) (j : Nat) :
    hiBit (a :: b :: p) j = if j < 8 then a.getLsbD (7 - j) else hiBit p (j - 8) := by
  unfold hiBit
  split
  · rename_i h; rw [Nat.div_eq_of_lt h, Nat.mod_eq_of_lt h]; rfl
  · have h1 : j / 8 = (j - 8) / 8 + 1 := by omega
    have h2 : j % 8 = (j - 8) % 8 := by omega
    rw [h1, h2, show 2 * ((j - 8) / 8 + 1) = 2 * ((j - 8) / 8) + 1 + 1 by ring]; rfl

theorem loBit_cons (a b : Byte) (p : List Byte) (j : Nat) :
    loBit (a :: b :: p) j = if j < 8 then b.getLsbD (7 - j) else loBit p (j - 8) := by
  unfold loBit
  split
  · rename_i h; rw [Nat.div_eq_of_lt h, Nat.mod_eq_of_lt h]; rfl
  · have h1 : j / 8 = (j - 8) / 8 + 1 := by omega
    have h2 : j % 8 = (j - 8) % 8 := by omega
    rw [h1, h2, show 2 * ((j - 8) / 8 + 1) + 1 = 2 * ((j - 8) / 8) + 1 + 1 + 1 by ring]; rfl

theorem loByte_cons (a b : Byte) (p : List Byte) (j : Nat) :
    (a :: b :: p).getD (2 * (j / 8) + 1) 0#8 = if j < 8 then b else p.getD (2 * ((j - 8) / 8) + 1) 0#8 := by
  split
  · rename_i h; rw [Nat.div_eq_of_lt h]; rfl
  · have h1 : j / 8 = (j - 8) / 8 + 1 := by omega
    rw [h1, show 2 * ((j - 8) / 8 + 1) + 1 = 2 * ((j - 8) / 8) + 1 + 1 + 1 by ring]; rfl

theorem gfx4Pair_get (creg : Vector ColorIndex 4) (m : Nat) (hm : 0 < m) (a b : Byte) (x : Nat) (hx : x < 8 * m) :
    (gfx4Pair creg m a b)[x]? = some (cregRead creg (gfx4Index a b (7 - x / m))) := by
  unfold gfx4Pair
  rw [flatMap_replicate_get (fun k => cregRead creg (gfx4Index a b k)) m hm]
  have : x / m < 8 := by rw [Nat.div_lt_iff_lt_mul hm]; omega
  rw [bitOrder_get _ this]; rfl

/-- Pixel `x` of a GFX4 row is the register that decoded pixel `x / m` selects (R95). -/
theorem gfx4Row_get (creg : Vector ColorIndex 4) (m : Nat) (hm : 0 < m) (p : List Byte) (x : Nat) (hx : x < p.length / 2 * (8 * m)) :
    (gfx4Row creg m p)[x]? = some (cregRead creg (BitVec.ofBool (hiBit p (x / m)) ++ BitVec.ofBool (loBit p (x / m)))) := by
  induction p using gfx4Row.induct generalizing x with
  | case1 => simp at hx
  | case2 => simp at hx
  | case3 hi lo p ih =>
    rw [gfx4Row]
    have hl : (gfx4Pair creg m hi lo).length = 8 * m := gfx4Pair_length creg m hi lo
    have hd : (hi :: lo :: p).length / 2 = p.length / 2 + 1 := by simp only [List.length_cons]; omega
    rw [hd, Nat.add_mul, one_mul] at hx
    rw [hiBit_cons, loBit_cons]
    by_cases h : x < 8 * m
    · have h8 : x / m < 8 := by rw [Nat.div_lt_iff_lt_mul hm]; omega
      rw [List.getElem?_append_left (by omega), gfx4Pair_get creg m hm hi lo x h, if_pos h8, if_pos h8]; rfl
    · have h8 : ¬ x / m < 8 := by rw [Nat.div_lt_iff_lt_mul hm]; omega
      have he : x / m - 8 = (x - 8 * m) / m := by
        have := Nat.sub_mul_div x m 8
        rw [Nat.mul_comm m 8] at this; exact this.symm
      rw [List.getElem?_append_right (by omega), hl, ih _ (by omega), if_neg h8, if_neg h8, he]

theorem creg_fin (a b : Bool) (creg : Vector ColorIndex 4) :
    cregRead creg (BitVec.ofBool a ++ BitVec.ofBool b) = creg.get (Fin.ofNat 4 (2 * a.toNat + b.toNat)) := by
  cases a <;> cases b <;> rfl

/-- What the first `j` decoded pixels of a payload carry forward, pixel by pixel (R143). -/
def carryFold (prev : ColorIndex) (p : List Byte) : Nat → ColorIndex
  | 0 => prev
  | j + 1 => if hiBit p j then pairBg p j else carryFold prev p j

/-- The pixel-by-pixel carry is the one that R143 describes. -/
theorem carries_carryFold (prev : ColorIndex) (p : List Byte) (j : Nat) : carries prev p j (carryFold prev p j) := by
  induction j with
  | zero => exact ⟨fun _ => rfl, fun i hi => absurd hi (by omega)⟩
  | succ j ih =>
    rw [carryFold]
    cases hb : hiBit p j with
    | true =>
      simp only [if_true]
      refine ⟨fun h => ?_, fun i hi h1 h2 => ?_⟩
      · rw [h j (by omega)] at hb; cases hb
      · by_cases hij : i = j
        · rw [hij]
        · have := h2 j (by omega) (by omega); rw [hb] at this; cases this
    | false =>
      simp only [Bool.false_eq_true, if_false]
      refine ⟨fun h => ih.1 fun i hi => h i (by omega), fun i hi h1 h2 => ?_⟩
      have : i ≠ j := by rintro rfl; rw [hb] at h1; cases h1
      exact ih.2 i (by omega) h1 fun k a b => h2 k a (by omega)

theorem bgOf_val (lo : Byte) : bgOf lo = BitVec.ofNat 4 (lo.toNat % 16) := by revert lo; decide

theorem fgOf_val (lo : Byte) : fgOf lo = BitVec.ofNat 4 (lo.toNat / 16) := by revert lo; decide

theorem pairBg_cons (a b : Byte) (p : List Byte) (j : Nat) :
    pairBg (a :: b :: p) j = if j < 8 then bgOf b else pairBg p (j - 8) := by
  unfold pairBg; rw [loByte_cons]; split
  · rw [bgOf_val]
  · rfl

theorem pairFg_cons (a b : Byte) (p : List Byte) (j : Nat) :
    pairFg (a :: b :: p) j = if j < 8 then fgOf b else pairFg p (j - 8) := by
  unfold pairFg; rw [loByte_cons]; split
  · rw [fgOf_val]
  · rfl

theorem carryFold_pair (prev : ColorIndex) (a b : Byte) (p : List Byte) (k : Nat) (hk : k ≤ 8) :
    carryFold prev (a :: b :: p) k = (bitOrder.take k).foldl (prevAfterBit a (bgOf b)) prev := by
  induction k with
  | zero => rfl
  | succ k ih =>
    have h8 : k < 8 := by omega
    rw [carryFold, ih (by omega), hiBit_cons, pairBg_cons, if_pos h8, if_pos h8, List.take_add_one,
      bitOrder_get k h8, List.foldl_append]
    rfl

theorem carryFold_shift (prev : ColorIndex) (a b : Byte) (p : List Byte) (j : Nat) :
    carryFold prev (a :: b :: p) (8 + j) = carryFold (prevAfterPair a b prev) p j := by
  induction j with
  | zero => rw [Nat.add_zero, carryFold_pair _ _ _ _ _ (le_refl 8)]; rfl
  | succ j ih =>
    have h8 : ¬ 8 + j < 8 := by omega
    rw [← Nat.add_assoc, carryFold, carryFold, ih, hiBit_cons, pairBg_cons, if_neg h8, if_neg h8,
      show 8 + j - 8 = j by omega]

theorem gfx16Bits_get (m : Nat) (hm : 0 < m) (a b : Byte) (bs : List Nat) (prev : ColorIndex) (x : Nat) (k : Nat) (hk : bs[x / m]? = some k) :
    (gfx16Bits m a b prev bs)[x]? =
      some (if bit a k then fgOf b else (bs.take (x / m)).foldl (prevAfterBit a (bgOf b)) prev) := by
  induction bs generalizing prev x with
  | nil => simp at hk
  | cons c bs ih =>
    rw [gfx16Bits]
    by_cases hx : x < m
    · rw [Nat.div_eq_of_lt hx] at hk ⊢
      simp only [List.getElem?_cons_zero, Option.some.injEq] at hk
      rw [List.getElem?_append_left (by simpa using hx), List.getElem?_replicate, if_pos hx, hk]; rfl
    · have hd : x / m = (x - m) / m + 1 := by rw [Nat.div_eq_sub_div hm (by omega)]
      rw [hd, List.getElem?_cons_succ] at hk
      rw [List.getElem?_append_right (by simpa using hx), List.length_replicate, ih _ _ hk, hd]; rfl

/-- Pixel `x` of a GFX16 row: the pair's foreground at a 1-bit, what is carried at a 0-bit (R96). -/
theorem gfx16Row_get (m : Nat) (hm : 0 < m) (p : List Byte) (prev : ColorIndex) (x : Nat) (hx : x < p.length / 2 * (8 * m)) :
    (gfx16Row m prev p)[x]? = some (if hiBit p (x / m) then pairFg p (x / m) else carryFold prev p (x / m)) := by
  induction prev, p using gfx16Row.induct generalizing x with
  | case1 => simp at hx
  | case2 => simp at hx
  | case3 prev hi lo p ih =>
    rw [gfx16Row]
    have hl : (gfx16Bits m hi lo prev bitOrder).length = 8 * m := gfx16Bits_length m hi lo bitOrder prev
    have hd : (hi :: lo :: p).length / 2 = p.length / 2 + 1 := by simp only [List.length_cons]; omega
    rw [hd, Nat.add_mul, one_mul] at hx
    rw [hiBit_cons, pairFg_cons]
    by_cases h : x < 8 * m
    · have h8 : x / m < 8 := by rw [Nat.div_lt_iff_lt_mul hm]; omega
      rw [List.getElem?_append_left (by omega), gfx16Bits_get m hm hi lo bitOrder prev x _ (bitOrder_get _ h8), if_pos h8, if_pos h8,
        carryFold_pair _ _ _ _ _ (by omega)]; rfl
    · have h8 : ¬ x / m < 8 := by rw [Nat.div_lt_iff_lt_mul hm]; omega
      have he : x / m - 8 = (x - 8 * m) / m := by
        have := Nat.sub_mul_div x m 8
        rw [Nat.mul_comm m 8] at this; exact this.symm
      have hs : carryFold prev (hi :: lo :: p) (x / m) = carryFold (prevAfterPair hi lo prev) p (x / m - 8) := by
        rw [← carryFold_shift, show 8 + (x / m - 8) = x / m by omega]
      rw [List.getElem?_append_right (by omega), hl, ih _ (by omega), if_neg h8, if_neg h8, hs, he]

/-- What a GFX16 row leaves in `PREVBG` is what all its pixels carry forward (R96, R143). -/
theorem prevAfterRow_eq (prev : ColorIndex) (p : List Byte) : prevAfterRow prev p = carryFold prev p (8 * (p.length / 2)) := by
  induction prev, p using prevAfterRow.induct with
  | case1 => rfl
  | case2 => simp [prevAfterRow, carryFold]
  | case3 prev hi lo p ih =>
    have hd : (hi :: lo :: p).length / 2 = p.length / 2 + 1 := by simp only [List.length_cons]; omega
    rw [prevAfterRow, ih, hd, show 8 * (p.length / 2 + 1) = 8 + 8 * (p.length / 2) by ring, carryFold_shift]

/-- With no 1-bit, what was there before is carried. -/
theorem carryFold_zero (prev : ColorIndex) (p : List Byte) (j : Nat) (h : ∀ i, i < j → hiBit p i = false) : carryFold prev p j = prev :=
  (carries_carryFold prev p j).1 h

end Sys2Proof.Machine
end

