-- ==== Sys2Proof/Laws/Invariant.lean ====
section
/-! SUPPORT. Each shared operation keeps the invariant. -/

namespace Sys2Proof.Machine

-- One proof at a time: proofs elaborated at once would each hold a thread.
set_option Elab.async false

/-- The invariant lets the cursor read. -/
theorem State.Inv.inputOk {s : State} (h : s.Inv) : inputOk s := ⟨h.inputDense, h.tailLe⟩

theorem inv_answer {s : State} (h : s.Inv) (r : Reply) : (answer r s).Inv :=
  ⟨h.1, h.2, h.3, h.4, h.5, h.6, h.7, h.8, h.9, h.10, h.11⟩

theorem inv_setPending {s : State} (h : s.Inv) (r) : (setPending r s).Inv :=
  ⟨h.1, h.2, h.3, h.4, h.5, h.6, h.7, h.8, h.9, h.10, h.11⟩

theorem inv_emit {s : State} (h : s.Inv) (r) : (emit r s).Inv :=
  ⟨h.1, h.2, h.3, h.4, h.5, h.6, h.7, h.8, h.9, h.10, h.11⟩

theorem inv_latch {s : State} (h : s.Inv) : (latchT0 s).Inv :=
  ⟨h.1, h.2, h.3, h.4, h.5, h.6, h.7, h.8, h.9, h.10, h.11⟩

theorem inv_supply {s : State} (h : s.Inv) (r) : (supply r s).Inv :=
  ⟨h.1, h.2, h.3, h.4, h.5, h.6, h.7, h.8, h.9, h.10, h.11⟩

theorem inv_cregWrite {s : State} (h : s.Inv) (i v) : (cregWrite i v s).Inv :=
  ⟨h.1, h.2, h.3, h.4, h.5, h.6, h.7, h.8, h.9, h.10, h.11⟩

theorem inv_setPrevBg {s : State} (h : s.Inv) (v) : (setPrevBg v s).Inv :=
  ⟨h.1, h.2, h.3, h.4, h.5, h.6, h.7, h.8, h.9, h.10, h.11⟩

theorem inv_setTail {s : State} (h : s.Inv) (n) (hn : n ≤ s.len) : (setTail n s).Inv :=
  ⟨h.1, h.2, hn, h.4, h.5, h.6, h.7, h.8, h.9, h.10, h.11⟩

theorem inv_enterFault {s : State} (h : s.Inv) (c) (x : Byte) (y n k) (hc : c = 1#4 ∨ c = 3#4) : (enterFault c (some x) y n k s).Inv :=
  ⟨h.1, h.2, h.3, h.4, h.5, h.6, h.7, h.8, fun _ => ⟨hc, rfl, rfl, rfl, rfl⟩, fun hn => absurd rfl hn, h.11⟩

theorem inv_appendRows {s : State} (h : s.Inv) (row : Row) (k) (hr : row.length = 352) : (appendRows row k s).Inv := by
  have h4 := h.rowsEq
  have h5 := h.rowsLe
  refine ⟨h.1, h.2, h.3, ?_, ?_, ?_, ?_, h.8, h.9, h.10, h.11⟩
  · simp [h4]
  · simp only [appendRows_rows, copies]; omega
  · intro r hm
    simp only [appendRows_rb, List.mem_append, List.mem_replicate] at hm
    rcases hm with hm | ⟨-, rfl⟩
    · exact h.rowWidth r hm
    · exact hr
  · intro hb
    obtain ⟨a, b⟩ := h.brkAt hb
    exact ⟨a, by simp only [appendRows_rows]; omega⟩

theorem inv_setBreak {s : State} (h : s.Inv) (hr : s.rows = 212) : (setBreak s).Inv :=
  ⟨h.1, h.2, h.3, h.4, h.5, h.6, fun _ => ⟨hr, by show 212 ≤ s.rows; omega⟩, h.rowsLe, h.9, h.10, h.11⟩

theorem inv_loadInput {s : State} (h : s.Inv) (b) : (loadInput b s).Inv :=
  ⟨Memory.ofBytes_dense b, h.2, le_refl _, h.4, h.5, h.6, h.7, h.8, h.9, h.10, h.11⟩

theorem inv_resetBlock {s : State} (h : s.Inv) : (resetBlock s).Inv :=
  ⟨h.1, h.2, h.3, rfl, Nat.zero_le _, fun _ hm => absurd hm (List.not_mem_nil), fun hb => absurd hb (by simp),
   by have := (Config.brkRowUnset s.draws).isLt; show (Config.brkRowUnset s.draws).val ≤ 260; omega,
   fun hs => absurd hs (by simp), fun _ => ⟨rfl, rfl, rfl, rfl, rfl, rfl⟩, h.11⟩

theorem inv_beginBlock {s : State} (h : s.Inv) (b) : (beginBlock b s).Inv :=
  ⟨Memory.ofBytes_dense b, h.2, le_refl _, rfl, Nat.zero_le _, fun _ hm => absurd hm (List.not_mem_nil), fun hb => absurd hb (by simp),
   by have := (Config.brkRowUnset s.draws).isLt; show (Config.brkRowUnset s.draws).val ≤ 260; omega,
   fun hs => absurd hs (by simp), fun _ => ⟨rfl, rfl, rfl, rfl, rfl, rfl⟩, h.11⟩

theorem inv_finish {s : State} (h : s.Inv) (hs : s.status ≠ .fault) : (finish s).Inv := by
  refine ⟨h.1, h.2, h.3, ?_, h.5, ?_, h.7, h.8, fun hs => absurd hs (by simp), fun _ => h.10 hs, h.11⟩
  · have := h.rowsEq
    show s.rows = (if s.brkValid then s.rb.drop s.brkRow ++ s.rb.take s.brkRow else s.rb).length
    split
    · rw [List.length_append, List.length_drop, List.length_take]; omega
    · exact this
  · intro r hm
    apply h.rowWidth
    simp only [finish_rb] at hm
    split at hm
    · rcases List.mem_append.1 hm with hm | hm
      · exact List.mem_of_mem_drop hm
      · exact List.mem_of_mem_take hm
    · exact hm

theorem inv_deliver {s : State} (h : s.Inv) (c : List Byte) : (deliver (addChunk c (clearChunks s))).Inv := by
  unfold deliver
  apply inv_answer
  exact ⟨by simpa using h.1, by simpa using Memory.ofBytes_dense c.reverse, by simpa using h.3, by simpa using h.4, by simpa using h.5, by simpa using h.6,
    by simpa using h.7, by simpa using h.8, by simpa using h.9, by simpa using h.10, by simp⟩

end Sys2Proof.Machine
end

