-- ==== Sys2Proof/Laws/Parser.lean ====
section
/-! SUPPORT. The dispatch stage: what it answers is a well-formed record with the header and payload it was given, selected in that state (R64, R65). -/

namespace Sys2Proof.Machine

-- One proof at a time: proofs elaborated at once would each hold a thread.
set_option Elab.async false

/-- Everything the dispatch stage answers (R65). -/
theorem dispatchStage_spec (c : DispatchCtx) (ctrl col : Byte) (p : List Byte) (hsome : plen ctrl col = some p.length) :
    (ctrlOf (dispatchStage c ctrl col p) = ctrl ∧ colOf (dispatchStage c ctrl col p) = col ∧
      payloadOf (dispatchStage c ctrl col p) = p) ∧
    (dispatchStage c ctrl col p).wf = true ∧ (dispatchStage c ctrl col p).selectedIn c = true ∧
    (dispatchStage c ctrl col p).isEncoderRecord = false := by
  simp only [dispatchStage, hits_textmark, hits_brk, hits_gfx4, hits_gfx16, hits_skip00, hits_skipff, hits_skipunit]
  split
  · rename_i hc
    simp only [decide_eq_true_eq] at hc
    subst hc
    simp [ctrlOf, colOf, payloadOf, Instr.wf, Instr.selectedIn, Instr.isEncoderRecord, hsome]
  rename_i hc
  simp only [decide_eq_true_eq] at hc
  split
  · rename_i hb
    simp only [Bool.and_eq_true, decide_eq_true_eq] at hb
    obtain ⟨⟨rfl, rfl⟩, ht⟩ := hb
    have : plen 0x30#8 0x88#8 = some 2 := by decide
    simp [ctrlOf, colOf, payloadOf, Instr.wf, Instr.selectedIn, Instr.isEncoderRecord, ht]
    rw [this] at hsome; simpa using hsome.symm
  rename_i hb
  split
  · rename_i hb
    simp only [Bool.and_eq_true, decide_eq_true_eq] at hb
    obtain ⟨⟨rfl, rfl⟩, ht⟩ := hb
    have : plen 0x30#8 0x88#8 = some 2 := by decide
    simp [ctrlOf, colOf, payloadOf, Instr.wf, Instr.selectedIn, Instr.isEncoderRecord, ht]
    rw [this] at hsome; simpa using hsome.symm
  rename_i hb2
  have hsel : headerWord ctrl col ≠ Config.brkHeader ∨ (triggers c = false ∧ c.brkValid = false) := by
    by_cases hh : headerWord ctrl col = Config.brkHeader
    · have := (headerWord_eq ctrl col 0x30#8 0x88#8).1 hh
      right
      simp only [this, and_self, decide_true, Bool.true_and, Bool.not_eq_true] at hb hb2
      exact ⟨hb, hb2⟩
    · exact .inl hh
  have hsel' : (headerWord ctrl col != Config.brkHeader || !(triggers c || c.brkValid)) = true := by
    rcases hsel with h | h
    · simp [h]
    · simp [h]
  split
  · rename_i hg
    simp only [decide_eq_true_eq] at hg
    have := plen_graphics hg.2 (.inl hg.1)
    rw [this] at hsome
    have h1 := ctrlByte_fields ctrl
    have h2 := colByte_fields col
    rw [hg.1] at h1
    rw [hg.2] at h2
    simp only [Option.some.injEq] at hsome
    simp [ctrlOf, colOf, payloadOf, Instr.wf, Instr.selectedIn, Instr.isEncoderRecord, h1, h2, hsome]
  rename_i hg4
  split
  · rename_i hg
    simp only [decide_eq_true_eq] at hg
    have := plen_graphics hg.2 (.inr hg.1)
    rw [this] at hsome
    have h1 := ctrlByte_fields ctrl
    have h2 := colByte_fields col
    rw [hg.1] at h1
    rw [hg.2] at h2
    simp only [Option.some.injEq] at hsome
    simp [ctrlOf, colOf, payloadOf, Instr.wf, Instr.selectedIn, Instr.isEncoderRecord, h1, h2, hsome]
  rename_i hg16
  split
  · rename_i h0
    simp only [decide_eq_true_eq] at h0
    obtain ⟨rfl, rfl⟩ := h0
    have : plen 0#8 0#8 = some 2 := by decide
    simp [ctrlOf, colOf, payloadOf, Instr.wf, Instr.selectedIn, Instr.isEncoderRecord]
    rw [this] at hsome; simpa using hsome.symm
  rename_i h0
  split
  · rename_i h0
    simp only [decide_eq_true_eq] at h0
    obtain ⟨rfl, rfl⟩ := h0
    have : plen 0xFF#8 0xFF#8 = some 132 := by decide
    simp [ctrlOf, colOf, payloadOf, Instr.wf, Instr.selectedIn, Instr.isEncoderRecord]
    rw [this] at hsome; simpa using hsome.symm
  rename_i hff
  simp only [decide_eq_true_eq] at hg4 hg16 h0 hff
  have w0 : headerWord ctrl col ≠ 0#16 := fun h => h0 ((headerWord_eq ctrl col 0#8 0#8).1 h)
  have wf : headerWord ctrl col ≠ 0xFFFF#16 := fun h => hff ((headerWord_eq ctrl col 0xFF#8 0xFF#8).1 h)
  split
  · rename_i hu
    simp only [Bool.and_eq_true, decide_eq_true_eq, zeroPair, beq_iff_eq] at hu
    simp [ctrlOf, colOf, payloadOf, Instr.wf, Instr.selectedIn, Instr.isEncoderRecord, hu.1, w0, hc]
    exact ⟨hu.2.symm, by simpa using hsel'⟩
  · rename_i hu
    simp only [ctrlOf, colOf, payloadOf, Instr.wf, Instr.selectedIn, Instr.isEncoderRecord, hits_graphics]
    refine ⟨by simp, ?_, by simpa using hsel', by simp⟩
    have hg : ¬ ((dispOf ctrl = 0#2 ∨ dispOf ctrl = 2#2) ∧ nucOf col = true) := by
      rintro ⟨h | h, h'⟩
      · exact hg4 ⟨h, h'⟩
      · exact hg16 ⟨h, h'⟩
    have hz : (!nucOf col && zeroPair p) = false := by
      cases hn : nucOf col
      · simpa [hn] using hu
      · rfl
    simp [hsome, hc, hg, w0, wf, hz]

theorem dispatch_noenc (c : DispatchCtx) (ctrl col : Byte) (p : List Byte) : (dispatchStage c ctrl col p).isEncoderRecord = false := by
  unfold dispatchStage; simp only; repeat' split
  all_goals rfl

theorem length_noenc (ctrl col : Byte) : (lengthStage ctrl col).isEncoderRecord = false := by
  unfold lengthStage; repeat' split
  all_goals rfl

end Sys2Proof.Machine
end

