-- ==== Sys2Proof/Laws/PerInstr.lean ====
section
/-! SUPPORT. Statements about every instruction as syntax, one lemma per constructor. -/

open Sys2Proof.Machine

namespace Sys2Proof.Laws.EncodedSize

-- One proof at a time: proofs elaborated at once would each hold a thread.
set_option Elab.async false

/-- A well-formed instruction's record is its two header bytes and the payload that its header announces (R54, R60). -/
def Statement (i : Instr) : Prop :=
  i.wf = true → (encode i).length = 2 + (plen (ctrlOf i) (colOf i)).getD 0

theorem unkmodeR0 (ctrl col : Byte) : Statement (.unkmodeR0 ctrl col) := by
  intro h
  simp only [Instr.wf, hits_unkmodeR0, decide_eq_true_eq] at h
  simp [encode, ctrlOf, colOf, payloadOf, plen_eq_none.2 ⟨h.2.2, h.1, by simp [h.2.1]⟩]

theorem unkmodeR1 (ctrl col : Byte) : Statement (.unkmodeR1 ctrl col) := by
  intro h
  simp only [Instr.wf, hits_unkmodeR1, decide_eq_true_eq] at h
  simp [encode, ctrlOf, colOf, payloadOf, plen_eq_none.2 ⟨h.2.2, h.1, by simp [h.2.1]⟩]

theorem unkmodeR2 (ctrl col : Byte) : Statement (.unkmodeR2 ctrl col) := by
  intro h
  simp only [Instr.wf, hits_unkmodeR2, decide_eq_true_eq] at h
  simp [encode, ctrlOf, colOf, payloadOf, plen_eq_none.2 ⟨h.2.2, h.1, by simp [h.2.1]⟩]

theorem textmark (col : Byte) (p : List Byte) : Statement (.textmark col p) := by
  intro h
  simp only [Instr.wf, beq_iff_eq] at h
  simp [encode, ctrlOf, colOf, payloadOf, h]; omega

theorem brktrig (p : List Byte) : Statement (.brktrig p) := by
  intro h
  simp only [Instr.wf, beq_iff_eq] at h
  have hp : plen 0x30#8 0x88#8 = some 2 := by decide
  simp [encode, ctrlOf, colOf, payloadOf, hp, h]

theorem brkdup (p : List Byte) : Statement (.brkdup p) := by
  intro h
  simp only [Instr.wf, beq_iff_eq] at h
  have hp : plen 0x30#8 0x88#8 = some 2 := by decide
  simp [encode, ctrlOf, colOf, payloadOf, hp, h]

theorem gfx4 (res : BitVec 2) (rep : BitVec 4) (en : Bool) (creg : BitVec 2) (csel : ColorIndex) (p : List Byte) :
    Statement (.gfx4 res rep en creg csel p) := by
  intro h
  simp only [Instr.wf, beq_iff_eq] at h
  have hp := plen_graphics (ctrl := ctrlByte 0#2 res rep) (nucOf_colByte en true creg csel) (.inl (dispOf_ctrlByte 0#2 res rep))
  simp [encode, ctrlOf, colOf, payloadOf, hp, h]; omega

theorem gfx16 (res : BitVec 2) (rep : BitVec 4) (en : Bool) (creg : BitVec 2) (csel : ColorIndex) (p : List Byte) :
    Statement (.gfx16 res rep en creg csel p) := by
  intro h
  simp only [Instr.wf, beq_iff_eq] at h
  have hp := plen_graphics (ctrl := ctrlByte 2#2 res rep) (nucOf_colByte en true creg csel) (.inr (dispOf_ctrlByte 2#2 res rep))
  simp [encode, ctrlOf, colOf, payloadOf, hp, h]; omega

theorem skip00 (p : List Byte) : Statement (.skip00 p) := by
  intro h
  simp only [Instr.wf, beq_iff_eq] at h
  have hp : plen 0x00#8 0x00#8 = some 2 := by decide
  simp [encode, ctrlOf, colOf, payloadOf, hp, h]

theorem skipff (p : List Byte) : Statement (.skipff p) := by
  intro h
  simp only [Instr.wf, beq_iff_eq] at h
  have hp : plen 0xFF#8 0xFF#8 = some 132 := by decide
  simp [encode, ctrlOf, colOf, payloadOf, hp, h]

theorem skipunit (ctrl col : Byte) : Statement (.skipunit ctrl col) := by
  intro h
  simp only [Instr.wf, Bool.and_eq_true, Bool.not_eq_true'] at h
  simp [encode, ctrlOf, colOf, payloadOf, plen_marker h.1.1]

theorem unrec (ctrl col : Byte) (p : List Byte) : Statement (.unrec ctrl col p) := by
  intro h
  simp only [Instr.wf, Bool.and_eq_true, beq_iff_eq] at h
  simp [encode, ctrlOf, colOf, payloadOf, h.1.1.1.1.1]; omega

theorem encRow16 (g : ImageRow) : Statement (.encRow16 g) := by
  intro _
  have hp : plen Config.encCtrl Config.encCol = some 88 := by decide
  simp [encode, ctrlOf, colOf, payloadOf, hp, rowChunk_length]

theorem encText (t : List Byte) : Statement (.encText t) := by
  intro _
  have hp : plen Config.textCtrl Config.textCol = some 132 := by decide
  simp [encode, ctrlOf, colOf, payloadOf, hp, textLineChunk_length]

end Sys2Proof.Laws.EncodedSize
end

