-- ==== Sys2Proof/Laws/Steps.lean ====
section
/-! SUPPORT. Everything one step can do: a meaning, a record step (R90), STEP (R106), RUN (R108) and each request of the host (R66). -/

namespace Sys2Proof.Machine

-- One proof at a time: proofs elaborated at once would each hold a thread.
set_option Elab.async false

/-- What goes on after a next state came from a next state. -/
theorem andThen_next {o : Host.Outcome State Fault Refusal} {f} {t : State} (h : andThen o f = .next t) :
    ∃ s, o = .next s ∧ f s = .next t := by
  cases o with
  | next s => exact ⟨s, rfl, h⟩
  | fault r => cases h
  | refused r => cases h

/-- The length stage's event, on an input the cursor can read (R91). -/
theorem unknownMode_next {s : State} (h : inputOk s) (ctrl col : Byte) :
    unknownMode ctrl col s = .next (emit (.unknownLineMode .length s.recT0 ctrl col (lastUnread Config.diagPeek s)) s) := by
  unfold unknownMode
  rw [peekBytes_of_dense h.1 h.2]
  simp only [lastUnread, Host.Outcome.next.injEq]
  congr 2
  rw [List.drop_take]
  congr 1; omega

theorem unknownMode_cases {ctrl col : Byte} {s t : State} (h : unknownMode ctrl col s = .next t) :
    ∃ diag, t = emit (.unknownLineMode .length s.recT0 ctrl col diag) s := by
  unfold unknownMode at h
  split at h
  · cases h; exact ⟨_, rfl⟩
  · cases h

/-- No meaning stops on an input the cursor can read. -/
theorem exec_next {s : State} (h : inputOk s) (i : Instr) : ∃ t, exec i s = .next t := by
  cases i with
  | unkmodeR0 ctrl col => exact ⟨_, unknownMode_next h ctrl col⟩
  | unkmodeR1 ctrl col => exact ⟨_, unknownMode_next h ctrl col⟩
  | unkmodeR2 ctrl col => exact ⟨_, unknownMode_next h ctrl col⟩
  | gfx4 res rep en creg csel p =>
    show ∃ t, execGfx4 _ _ _ _ _ _ _ = _
    unfold execGfx4; split
    · exact ⟨_, rfl⟩
    · exact finishRow_next _ _ _ _ _
  | gfx16 res rep en creg csel p =>
    show ∃ t, execGfx16 _ _ _ _ _ _ _ = _
    unfold execGfx16; split
    · exact ⟨_, rfl⟩
    · exact finishRow_next _ _ _ _ _
  | _ => exact ⟨_, rfl⟩

/-- What no STEP touches, and the cursor only falls (R37, R53, R145). -/
structure Kept (s t : State) : Prop where
  input : t.input = s.input
  len : t.len = s.len
  palette16 : t.palette16 = s.palette16
  palMode : t.palMode = s.palMode
  inputs : t.inputs = s.inputs
  bufCap : t.bufCap = s.bufCap
  encOut : t.encOut = s.encOut
  draws : t.draws = s.draws
  pending : t.pending = s.pending
  replies : t.replies = s.replies
  tail : t.tail ≤ s.tail

theorem kept_refl (s : State) : Kept s s := ⟨rfl, rfl, rfl, rfl, rfl, rfl, rfl, rfl, rfl, rfl, le_refl _⟩

theorem Kept.trans {a b c : State} (h : Kept a b) (k : Kept b c) : Kept a c :=
  ⟨k.1.trans h.1, k.2.trans h.2, k.3.trans h.3, k.4.trans h.4, k.5.trans h.5, k.6.trans h.6, k.7.trans h.7, k.8.trans h.8,
   k.9.trans h.9, k.10.trans h.10, le_trans k.11 h.11⟩

theorem kept_start {s : State} {n : Nat} (h : n ≤ s.tail) : Kept s (setTail n (latchT0 s)) :=
  ⟨rfl, rfl, rfl, rfl, rfl, rfl, rfl, rfl, rfl, rfl, h⟩

theorem kept_finish (s : State) : Kept s (finish s) := ⟨rfl, rfl, rfl, rfl, rfl, rfl, rfl, rfl, rfl, rfl, le_refl _⟩

theorem kept_inputOk {s t : State} (h : inputOk s) (k : Kept s t) : inputOk t := by
  refine ⟨?_, ?_⟩
  · rw [k.input, k.len]; exact h.1
  · rw [k.len]; exact le_trans k.tail h.2

/-- What no meaning touches (R37). -/
theorem exec_kept {i : Instr} {s t : State} (h : exec i s = .next t) : Kept s t ∧ t.tail = s.tail ∧ t.recT0 = s.recT0 := by
  have done : ∀ u : State, u.input = s.input → u.len = s.len → u.palette16 = s.palette16 → u.palMode = s.palMode →
      u.inputs = s.inputs → u.bufCap = s.bufCap → u.encOut = s.encOut → u.draws = s.draws → u.pending = s.pending →
      u.replies = s.replies → u.tail = s.tail → u.recT0 = s.recT0 → Kept s u ∧ u.tail = s.tail ∧ u.recT0 = s.recT0 :=
    fun u h1 h2 h3 h4 h5 h6 h7 h8 h9 h10 h11 h12 => ⟨⟨h1, h2, h3, h4, h5, h6, h7, h8, h9, h10, by omega⟩, h11, h12⟩
  cases i with
  | gfx4 res rep en creg csel p =>
    obtain ⟨s1, h1, h2⟩ := execGfx4_cases h
    rcases h1 with rfl | ⟨rfl, hb, rfl⟩ <;> rcases h2 with ⟨_, _, _, _, _, rfl⟩ | ⟨_, _, rfl⟩ <;> apply done <;> rfl
  | gfx16 res rep en creg csel p =>
    obtain ⟨s1, h1, h2⟩ := execGfx16_cases h
    rcases h1 with rfl | ⟨v, rfl⟩ <;> rcases h2 with ⟨_, _, _, _, _, rfl⟩ | ⟨_, _, rfl⟩ <;> apply done <;> rfl
  | unkmodeR0 ctrl col => obtain ⟨d, rfl⟩ := unknownMode_cases h; apply done <;> rfl
  | unkmodeR1 ctrl col => obtain ⟨d, rfl⟩ := unknownMode_cases h; apply done <;> rfl
  | unkmodeR2 ctrl col => obtain ⟨d, rfl⟩ := unknownMode_cases h; apply done <;> rfl
  | _ => cases h; apply done <;> rfl

/-- A meaning leaves `STATUS` alone or faults. -/
theorem exec_status {i : Instr} {s t : State} (h : exec i s = .next t) : t.status = s.status ∨ t.status = .fault := by
  cases i with
  | gfx4 res rep en creg csel p =>
    obtain ⟨s1, h1, h2⟩ := execGfx4_cases h
    rcases h1 with rfl | ⟨rfl, hb, rfl⟩ <;> rcases h2 with ⟨_, _, _, _, _, rfl⟩ | ⟨_, _, rfl⟩ <;> simp
  | gfx16 res rep en creg csel p =>
    obtain ⟨s1, h1, h2⟩ := execGfx16_cases h
    rcases h1 with rfl | ⟨v, rfl⟩ <;> rcases h2 with ⟨_, _, _, _, _, rfl⟩ | ⟨_, _, rfl⟩ <;> simp
  | unkmodeR0 ctrl col => obtain ⟨d, rfl⟩ := unknownMode_cases h; simp
  | unkmodeR1 ctrl col => obtain ⟨d, rfl⟩ := unknownMode_cases h; simp
  | unkmodeR2 ctrl col => obtain ⟨d, rfl⟩ := unknownMode_cases h; simp
  | _ => cases h; simp

/-- Everything a record step can come to, in any state (R90). -/
theorem recordStep_cases {s t : State} (h : recordStep s = .next t) :
    (∃ n c x y k j, t = enterFault c x y k j (setTail n (latchT0 s)) ∧ n ≤ s.tail ∧ c = codeShortBuffer) ∨
    (∃ i n, exec i (setTail n (latchT0 s)) = .next t ∧ n ≤ s.tail - 2 ∧ 2 ≤ s.tail ∧ i.isEncoderRecord = false ∧ i.selectedIn s.ctx = true) := by
  have self : latchT0 s = setTail s.tail (latchT0 s) := rfl
  unfold recordStep at h
  split at h
  · rename_i v s1 h1
    obtain ⟨a1, rfl⟩ := takeBytes_taken h1
    unfold recordColor at h
    split at h
    · rename_i v2 s2 h2
      obtain ⟨a2, rfl⟩ := takeBytes_taken h2
      unfold recordBody at h
      simp at a1 a2
      split at h
      · refine .inr ⟨_, s.tail - 1 - 1, h, by omega, by omega, ?_, ?_⟩
        · unfold lengthStage; split <;> (try split) <;> rfl
        · unfold lengthStage; split <;> (try split) <;> rfl
      · rename_i n hp
        split at h
        · rename_i v3 s3 h3
          obtain ⟨a3, rfl⟩ := takeBytes_taken h3
          have hl := takeBytes_length h3
          have hd := dispatchStage_spec s.ctx (v.headD 0#8) (v2.headD 0#8) v3.reverse (by rw [hp]; simp [hl])
          exact .inr ⟨_, s.tail - 1 - 1 - n, h, by omega, by omega, hd.2.2.2, hd.2.2.1⟩
        · rename_i a b h3
          cases h
          exact .inl ⟨s.tail - 1 - 1, _, _, _, _, _, rfl, by omega, rfl⟩
        · cases h
    · cases h
      exact .inl ⟨s.tail - 1, _, _, _, _, _, rfl, by omega, rfl⟩
    · cases h
  · cases h
    exact .inl ⟨s.tail, _, _, _, _, _, rfl, le_refl _, rfl⟩
  · cases h

theorem recordStep_kept {s t : State} (h : recordStep s = .next t) : Kept s t := by
  rcases recordStep_cases h with ⟨n, c, x, y, k, j, rfl, hn, -⟩ | ⟨i, n, he, hn, h2, -, -⟩
  · exact (kept_start hn).trans ⟨rfl, rfl, rfl, rfl, rfl, rfl, rfl, rfl, rfl, rfl, le_refl _⟩
  · exact (kept_start (by omega)).trans (exec_kept he).1

/-- Everything STEP can come to (R106). -/
theorem driverStep_cases {s t : State} (h : driverStep s = .next t) :
    (s.status ≠ .running ∧ t = s) ∨ (s.status = .running ∧ passOver s = true ∧ t = finish s) ∨
    (s.status = .running ∧ passOver s = false ∧ recordStep s = .next t) := by
  unfold driverStep at h
  cases hs : s.status <;> rw [hs] at h <;> simp only at h
  · cases h; exact .inl ⟨by simp, rfl⟩
  · split at h
    · cases h; exact .inr (.inl ⟨rfl, by assumption, rfl⟩)
    · rename_i hp; exact .inr (.inr ⟨rfl, by simpa using hp, h⟩)
  · cases h; exact .inl ⟨by simp, rfl⟩
  · cases h; exact .inl ⟨by simp, rfl⟩

theorem driverStep_kept {s t : State} (h : driverStep s = .next t) : Kept s t := by
  rcases driverStep_cases h with ⟨-, rfl⟩ | ⟨-, -, rfl⟩ | ⟨-, -, h⟩
  · exact kept_refl _
  · exact kept_finish _
  · exact recordStep_kept h

theorem runSteps_kept {k : Nat} {s t : State} (h : runSteps k s = .next t) : Kept s t := by
  induction k generalizing s with
  | zero => cases h; exact kept_refl _
  | succ k ih =>
    unfold runSteps at h
    split at h
    · obtain ⟨u, h1, h2⟩ := andThen_next h
      exact (driverStep_kept h1).trans (ih h2)
    · cases h; exact kept_refl _

/-- Outside a running pass no STEP does anything (R106). -/
theorem runSteps_stop {s : State} (h : s.status ≠ .running) (k : Nat) : runSteps k s = .next s := by
  cases k with
  | zero => rfl
  | succ k => unfold runSteps; rw [if_neg]; simp [isBusy, h]

/-- Everything a request of the host can come to (R66). -/
theorem perform_cases {q : Request} {s t : State} (h : perform q s = .next t) :
    (∃ r, t = answer r s) ∨
    (q = .reset ∧ t = answer .ack (resetBlock s)) ∨
    (∃ b, q = .load b ∧ isBusy s = false ∧ t = answer .ack (loadInput b s)) ∨
    (∃ n r, q = .take n ∧ isBusy s = false ∧ n ≤ s.tail ∧ t = answer r (setTail (s.tail - n) s)) ∨
    (∃ b, q = .beginPass b ∧ t = answer .ack (beginBlock b s)) ∨
    (∃ u, q = .step ∧ driverStep s = .next u ∧ t = answer (.status u.status) u) ∨
    (∃ b u, q = .run b ∧ runSteps (stepBound b.length) (beginBlock b s) = .next u ∧ t = answer (.status u.status) u) ∨
    (∃ g ov c, q = .encode g ov ∧ t = deliver (addChunk c (clearChunks s))) ∨
    (∃ f, t = answer .ack (supply f s) ∧ ((∃ p, q = .supplyPalette p) ∨ q = .adjustPalette ∨ (∃ m, q = .supplyPalMode m) ∨ ∃ v a b, q = .supplyEncoder v a b)) := by
  cases q with
  | reset => cases h; exact .inr (.inl ⟨rfl, rfl⟩)
  | load b =>
    simp only [perform, opLoad] at h
    split at h
    · cases h; exact .inl ⟨_, rfl⟩
    · rename_i hb
      split at h
      · cases h; exact .inr (.inr (.inl ⟨_, rfl, by simpa using hb, rfl⟩))
      · cases h; exact .inl ⟨_, rfl⟩
  | take n =>
    simp only [perform, opTake] at h
    split at h
    · cases h; exact .inl ⟨_, rfl⟩
    · rename_i hb
      split at h
      · rename_i ht
        obtain ⟨h1, rfl⟩ := takeBytes_taken ht
        cases h; exact .inr (.inr (.inr (.inl ⟨_, _, rfl, by simpa using hb, h1, rfl⟩)))
      · cases h; exact .inl ⟨_, rfl⟩
      · cases h
  | peek n =>
    simp only [perform, opPeek] at h
    split at h
    · cases h; exact .inl ⟨_, rfl⟩
    · cases h
  | remaining => cases h; exact .inl ⟨_, rfl⟩
  | isEmpty => cases h; exact .inl ⟨_, rfl⟩
  | beginPass b =>
    simp only [perform, opBegin] at h
    split at h
    · cases h; exact .inr (.inr (.inr (.inr (.inl ⟨_, rfl, rfl⟩))))
    · cases h; exact .inl ⟨_, rfl⟩
  | step =>
    simp only [perform, opStep] at h
    obtain ⟨u, h1, h2⟩ := andThen_next h
    cases h2
    exact .inr (.inr (.inr (.inr (.inr (.inl ⟨u, rfl, h1, rfl⟩)))))
  | run b =>
    simp only [perform, opRun] at h
    split at h
    · obtain ⟨u, h1, h2⟩ := andThen_next h
      cases h2
      exact .inr (.inr (.inr (.inr (.inr (.inr (.inl ⟨b, u, rfl, h1, rfl⟩))))))
    · cases h; exact .inl ⟨_, rfl⟩
  | readout =>
    simp only [perform, opReadout] at h
    split at h <;> (try split at h) <;> cases h <;> exact .inl ⟨_, rfl⟩
  | map c => cases h; exact .inl ⟨_, rfl⟩
  | encode g ov =>
    simp only [perform, opEncode] at h
    split at h
    · cases h; exact .inl ⟨_, rfl⟩
    · split at h
      · rw [emitItems_bytes] at h; cases h
        exact .inr (.inr (.inr (.inr (.inr (.inr (.inr (.inl ⟨g, ov, _, rfl, rfl⟩)))))))
      · cases h; exact .inl ⟨_, rfl⟩
  | supplyPalette p => cases h; exact .inr (.inr (.inr (.inr (.inr (.inr (.inr (.inr ⟨_, rfl, .inl ⟨_, rfl⟩⟩)))))))
  | adjustPalette => cases h; exact .inr (.inr (.inr (.inr (.inr (.inr (.inr (.inr ⟨_, rfl, .inr (.inl rfl)⟩)))))))
  | supplyPalMode m => cases h; exact .inr (.inr (.inr (.inr (.inr (.inr (.inr (.inr ⟨_, rfl, .inr (.inr (.inl ⟨_, rfl⟩))⟩)))))))
  | supplyEncoder v a b => cases h; exact .inr (.inr (.inr (.inr (.inr (.inr (.inr (.inr ⟨_, rfl, .inr (.inr (.inr ⟨_, _, _, rfl⟩))⟩)))))))

/-- A step performs the first request. -/
theorem step_perform {s : State} {op : Request} {q : List Request} (h : s.pending = op :: q) : step s = perform op (setPending q s) := by
  unfold step; rw [h]

end Sys2Proof.Machine
end

