-- ==== Sys2Proof/Tests/Slice0.lean ====
section
/-! SUPPORT. The model's own tests. Expected values come from spec/95_test_vectors.md (each test names its vector) or from the rule
that it names; a decode test writes the word out field by field: disp, res, rep, en, nuc, creg, csel. The witnesses at the end
show, for each statement with hypotheses, a concrete case that meets them together. -/

open Sys2Proof Sys2Proof.Machine

namespace Sys2Proof.Tests

-- One test after another: a kernel decision waits for those before it, and each waiting test would hold a thread of its own.
set_option Elab.async false

/-- A running pass over bytes given in read order, with operations issued. -/
def fed (bytes : List Byte) (ops : List Request) : State :=
  setPending ops (setStatus .running (loadInput bytes.reverse State.reset))

/-- The same with one row repeated `n` times already in the row buffer. -/
def fedAt (n : Nat) (bytes : List Byte) (ops : List Request) : State :=
  let s := fed bytes ops
  { s with rows := n, rb := List.replicate n (List.replicate 352 0#4) }

/-- The next state, if there is one. -/
def after (o : Host.Outcome State Fault Refusal) : Option State :=
  match o with
  | .next s => some s
  | .fault _ => none
  | .refused _ => none

/-- One STEP over a record. -/
def stepped (bytes : List Byte) : Option State := after (step (fed bytes [.step]))

/-- `n` payload pairs. -/
def pairs (n : Nat) (hi lo : Byte) : List Byte := (List.replicate n [hi, lo]).flatten

/-- `n` copies of a group of pixels. -/
def groups (n : Nat) (v : List ColorIndex) : Row := (List.replicate n v).flatten

/-- The context of a fresh pass. -/
def fresh : DispatchCtx := ⟨0, false⟩

/-- The instruction at the front of bytes in read order. -/
def first (ctx : DispatchCtx) (bytes : List Byte) : Option Instr :=
  match decode ctx bytes with
  | .ok (i, _) => some i
  | .error _ => none

/-! ### WellFormed refuses an ill-formed term, check by check -/

theorem test_wf_unkmode : (Instr.unkmodeR0 0x50#8 0x40#8).wf = false ∧ (Instr.unkmodeR1 0x40#8 0x40#8).wf = false ∧
    (Instr.unkmodeR2 0x70#8 0x40#8).wf = false := by decide
theorem test_wf_textmark : (Instr.textmark 0x40#8 [0x41#8, 0x00#8]).wf = false := by decide
theorem test_wf_break : (Instr.brktrig [0#8]).wf = false ∧ (Instr.brkdup [0#8, 0#8, 0#8]).wf = false := by decide
theorem test_wf_graphics : (Instr.gfx4 0#2 0#4 false 0#2 0#4 (List.replicate 44 0#8)).wf = false ∧
    (Instr.gfx16 1#2 0#4 false 0#2 0#4 (List.replicate 43 0#8)).wf = false := by decide
theorem test_wf_skips : (Instr.skip00 []).wf = false ∧ (Instr.skipff [0xFF#8, 0xFF#8]).wf = false := by decide
theorem test_wf_skipunit : (Instr.skipunit 0xC5#8 0x40#8).wf = false ∧ (Instr.skipunit 0x7A#8 0x00#8).wf = false ∧
    (Instr.skipunit 0x00#8 0x00#8).wf = false := by decide
theorem test_wf_unrec_length : (Instr.unrec 0x70#8 0x40#8 [0x12#8, 0x34#8]).wf = false := by decide
theorem test_wf_unrec_header : (Instr.unrec 0x7A#8 0x00#8 [1#8, 2#8]).wf = false ∧
    (Instr.unrec 0x00#8 0x40#8 (List.replicate 22 0#8)).wf = false ∧ (Instr.unrec 0x00#8 0x00#8 [1#8, 2#8]).wf = false ∧
    (Instr.unrec 0x20#8 0x85#8 [0#8, 0#8]).wf = false := by decide
theorem test_wf_unrec_ff : (Instr.unrec 0xFF#8 0xFF#8 (List.replicate 132 1#8)).wf = false := by decide +kernel
theorem test_wf_encRow16 : (Instr.encRow16 [[0#8, 0#8, 0#8]]).wf = false ∧
    (Instr.encRow16 (List.replicate 352 [0#8, 0#8])).wf = false := by decide +kernel
theorem test_selected : (Instr.brktrig [0#8, 0#8]).selectedIn ⟨211, false⟩ = false ∧
    (Instr.brkdup [0#8, 0#8]).selectedIn ⟨212, false⟩ = false ∧ (Instr.skipunit 0x30#8 0x88#8).selectedIn ⟨212, false⟩ = false ∧
    (Instr.unrec 0x30#8 0x88#8 [1#8, 0#8]).selectedIn ⟨0, true⟩ = false := by decide

/-! ### Decode: every constructor from a word written out from its encoding -/

-- disp 01, res 00, rep 0000; en 0, nuc 1, creg 00, csel 0000 (R91)
theorem test_decode_unkmodeR0 : decodeTableWord 16 0b0100000001000000 = some (.unkmodeR0 0x40#8 0x40#8) := by decide
-- disp 11, res 01, rep 0011; en 1, nuc 1, creg 10, csel 0101
theorem test_decode_unkmodeR1 : decodeTableWord 16 0b1101001111100101 = some (.unkmodeR1 0xD3#8 0xE5#8) := by decide
-- disp 01, res 10, rep 0000; en 0, nuc 1, creg 11, csel 1111
theorem test_decode_unkmodeR2 : decodeTableWord 16 0b0110000001111111 = some (.unkmodeR2 0x60#8 0x7F#8) := by decide
-- ctrl 0x7A = disp 01, res 11, rep 1010; col with nuc 0: a 2-byte payload (R92, R60)
theorem test_decode_textmark : first fresh [0b01111010#8, 0b00000000#8, 0x41#8, 0x00#8] =
    some (.textmark 0x00#8 [0x41#8, 0x00#8]) := by decide
-- ctrl 0x30 = disp 00, res 11, rep 0000; col 0x88 = en 1, nuc 0, creg 00, csel 1000 (R93)
theorem test_decode_brktrig : first ⟨212, false⟩ [0b00110000#8, 0b10001000#8, 0x01#8, 0x02#8] =
    some (.brktrig [0x01#8, 0x02#8]) := by decide
-- the same header with the break recorded (R94)
theorem test_decode_brkdup : first ⟨212, true⟩ [0b00110000#8, 0b10001000#8, 0x01#8, 0x02#8] =
    some (.brkdup [0x01#8, 0x02#8]) := by decide
-- disp 00, res 10, rep 0101; en 1, nuc 1, creg 10, csel 0111 (R95)
theorem test_decode_gfx4 : decodeTableWord 16 0b0010010111100111 =
    some (.gfx4 2#2 5#4 true 2#2 7#4 (List.replicate 88 0#8)) := by decide +kernel
-- disp 10, res 00, rep 1000; en 0, nuc 1, creg 00, csel 0000 (R96, X1); the payload bits follow the header's
theorem test_decode_gfx16 : decodeTableWord 192 (0b1000100001000000 + 0xB5FF * 2 ^ 16) =
    some (.gfx16 0#2 8#4 false 0#2 0#4 ([0xFF#8, 0xB5#8] ++ List.replicate 20 0#8)) := by decide +kernel
theorem test_decode_skip00 : first fresh [0x00#8, 0x00#8, 0x12#8, 0x34#8] = some (.skip00 [0x12#8, 0x34#8]) := by decide
theorem test_decode_skipff : decodeTableWord 16 0b1111111111111111 = some (.skipff (List.replicate 132 0#8)) := by
  decide +kernel
-- nuc 0 and a payload of two zero bytes (R97, X2)
theorem test_decode_skipunit : first fresh [0xC5#8, 0b00000000#8, 0x00#8, 0x00#8] = some (.skipunit 0xC5#8 0x00#8) := by decide
-- nuc 0 and another payload (R99, X2)
theorem test_decode_unrec : first fresh [0x5B#8, 0b00111111#8, 0x12#8, 0x34#8] =
    some (.unrec 0x5B#8 0x3F#8 [0x12#8, 0x34#8]) := by decide
-- the encoder's records as the decoder reads them (R68, X5): disp 10, res 10, rep 0000; nuc 1; and ctrl 0x7A, col 0x40
theorem test_decode_encRow16 : decodeTableWord 16 0b1010000001000000 =
    some (.gfx16 2#2 0#4 false 0#2 0#4 (List.replicate 88 0#8)) := by decide +kernel
theorem test_decode_encText : decodeTableWord 16 0b0111101001000000 =
    some (.textmark 0x40#8 (List.replicate 132 0#8)) := by decide +kernel
-- too few bytes (R122)
theorem test_decode_short : decode fresh [0x88#8, 0x40#8, 0xFF#8, 0xB5#8] = .error (.shortPayload 22 2) := rfl

/-! ### Each instruction, one step -/

-- V-UNK-1, and the last 70 of 100 bytes left (V-UNK-4)
theorem test_unkmodeR0 : (stepped [0x40#8, 0x40#8]).map (fun t => (t.ev, t.tail, t.status)) =
    some ([.unknownLineMode .length 2 0x40#8 0x40#8 []], 0, .running) := by decide +kernel
theorem test_unkmodeR0_diag :
    (stepped ([0x40#8, 0x40#8] ++ List.replicate 70 0x11#8 ++ List.replicate 30 0x22#8)).map (fun t => (t.ev, t.tail)) =
    some ([.unknownLineMode .length 102 0x40#8 0x40#8 (List.replicate 70 0x11#8)], 100) := by decide +kernel
-- V-UNK-2
theorem test_unkmodeR1 : (stepped [0x50#8, 0x40#8, 0x00#8, 0x00#8, 0x03#8, 0x04#8]).map (fun t => (t.ev, t.tail)) =
    some ([.unknownLineMode .length 6 0x50#8 0x40#8 [0x04#8, 0x03#8, 0x00#8, 0x00#8]], 4) := by decide +kernel
theorem test_unkmodeR2 : (stepped [0x60#8, 0x7F#8, 0x01#8]).map (fun t => (t.ev, t.tail)) =
    some ([.unknownLineMode .length 3 0x60#8 0x7F#8 [0x01#8]], 1) := by decide +kernel
-- V-TXT-4, V-TXT-2
theorem test_textmark : (stepped ([0x7A#8, 0x40#8] ++ pairs 66 0x41#8 0x99#8)).map (fun t => (t.ev, t.rows, t.tail)) =
    some ([.textObserved 134 (List.replicate 66 0x41#8)], 0, 0) := by decide +kernel
theorem test_textmark_short_form : (stepped [0x7A#8, 0x00#8, 0x41#8, 0x00#8]).map (fun t => (t.ev, t.creg)) =
    some ([.textObserved 4 [0x41#8]], #v[1#4, 9#4, 12#4, 15#4]) := by decide +kernel
-- V-BRK-1, V-BRK-2
theorem test_brktrig :
    (after (step (fedAt 212 [0x30#8, 0x88#8, 0#8, 0#8] [.step]))).map (fun t => (t.brkValid, t.brkRow, t.creg, t.ev)) =
    some (true, 212, #v[1#4, 9#4, 12#4, 15#4], []) := by decide +kernel
theorem test_brktrig_not_at_100 :
    (after (step (fedAt 100 [0x30#8, 0x88#8, 0#8, 0#8] [.step]))).map (fun t => (t.brkValid, t.ev)) = some (false, []) := by
  decide +kernel
-- V-BRK-4, V-BRK-5 (the second record)
theorem test_brkdup :
    (after (step (setBreak (fedAt 212 [0x30#8, 0x88#8, 0#8, 0#8] [.step])))).map (fun t => (t.brkValid, t.brkRow, t.ev)) =
    some (true, 212, [.asciiBreakAlreadySet 4 212]) := by decide +kernel
-- V-G4-1, V-G4-2
theorem test_gfx4 : (stepped ([0x20#8, 0xE5#8] ++ pairs 44 0xAA#8 0xCC#8)).map (fun t => (t.creg, t.rb)) =
    some (#v[1#4, 9#4, 5#4, 15#4], [groups 44 [15#4, 9#4, 5#4, 1#4, 15#4, 9#4, 5#4, 1#4]]) := by decide +kernel
theorem test_gfx4_write_first : (stepped ([0x00#8, 0xC7#8] ++ pairs 11 0x00#8 0x00#8)).map (fun t => (t.creg, t.rb)) =
    some (#v[7#4, 9#4, 12#4, 15#4], [List.replicate 352 7#4]) := by decide +kernel
-- V-G16-2, V-G16-7
theorem test_gfx16 : (stepped ([0x88#8, 0x40#8] ++ pairs 11 0x81#8 0x3C#8)).map (fun t => (t.prevBg, t.rows, t.rb[8]?)) =
    some (12#4, 9, some (groups 11 (List.replicate 4 3#4 ++ List.replicate 24 12#4 ++ List.replicate 4 3#4))) := by
  decide +kernel
theorem test_gfx16_res3 : (stepped ([0xB0#8, 0x40#8] ++ pairs 66 0xFF#8 0x11#8)).map
      (fun t => (t.status, t.faultCode, [t.faultT0, t.faultNeed, t.faultHave], [t.tail, t.rows], t.prevBg)) =
    some (.fault, 3#4, [some 134, some 352, some 528], [0, 0], 0#4) := by decide +kernel
-- V-SKIP-1, V-SKIP-3
theorem test_skip00 : (stepped [0x00#8, 0x00#8, 0x12#8, 0x34#8, 0x55#8]).map (fun t => (t.tail, t.ev, t.rows)) =
    some (1, [], 0) := by decide +kernel
-- V-SKIP-2
theorem test_skipff : (stepped ([0xFF#8, 0xFF#8] ++ List.replicate 132 0xAB#8)).map (fun t => (t.tail, t.ev, t.rows)) =
    some (0, [], 0) := by decide +kernel
-- V-SKIP-4
theorem test_skipunit : (stepped [0x20#8, 0x85#8, 0x00#8, 0x00#8]).map (fun t => (t.tail, t.ev, t.creg)) =
    some (0, [], #v[1#4, 9#4, 12#4, 15#4]) := by decide +kernel
-- V-UNR-1, V-UNR-3
theorem test_unrec : (stepped [0x20#8, 0x85#8, 0x12#8, 0x34#8]).map (fun t => (t.ev, t.creg)) =
    some ([.unknownLineMode .dispatch 4 0x20#8 0x85#8 [0x12#8, 0x34#8]], #v[1#4, 9#4, 12#4, 15#4]) := by decide +kernel
theorem test_unrec_long : (stepped ([0xF5#8, 0x40#8] ++ List.replicate 132 0x01#8)).map (fun t => (t.ev, t.tail)) =
    some ([.unknownLineMode .dispatch 134 0xF5#8 0x40#8 (List.replicate 132 0x01#8)], 0) := by decide +kernel
-- V-ENC-2
theorem test_encRow16 : (after (exec (.encRow16 ((List.replicate 44
      (List.replicate 4 [200#8, 200#8, 200#8] ++ List.replicate 4 [34#8, 34#8, 34#8])).flatten)) State.reset)).map State.chunks =
    some ([0xA0#8, 0x40#8] ++ pairs 44 0xF0#8 0xC2#8) := by decide +kernel
-- V-ENC-3, V-ENC-4
theorem test_encText : (after (exec (.encText [0x48#8, 0x49#8]) State.reset)).map State.chunks =
    some ([0x7A#8, 0x40#8] ++ pairs 4 0x20#8 0x00#8 ++ [0x48#8, 0x00#8, 0x49#8, 0x00#8] ++ pairs 60 0x20#8 0x00#8) := by
  decide +kernel
theorem test_encText_cut : (after (exec (.encText (List.replicate 70 0x41#8)) State.reset)).map State.chunks =
    some ([0x7A#8, 0x40#8] ++ pairs 4 0x20#8 0x00#8 ++ pairs 62 0x41#8 0x00#8) := by decide +kernel

/-! ### Host operations -/

-- 2.3, rows 4 to 6 of its table; P7 steps 7 and 8
theorem test_take : (after (step (setPending [.take 2] (loadInput [0x11#8, 0x22#8, 0x33#8] State.reset)))).map
    (fun t => (t.tail, t.replies)) = some (1, [.bytes [0x22#8, 0x33#8]]) := by decide +kernel
theorem test_take_short : (after (step (setPending [.take 2] (loadInput [0x11#8] State.reset)))).map
    (fun t => (t.tail, t.replies)) = some (1, [.error (.shortBuffer 2 1)]) := by decide +kernel
theorem test_peek : (after (step (setPending [.peek 70] (loadInput [0x11#8] State.reset)))).map
    (fun t => (t.tail, t.replies)) = some (1, [.bytes [0x11#8]]) := by decide +kernel
-- X1's four bytes
theorem test_short_payload : (stepped [0x88#8, 0x40#8, 0xFF#8, 0xB5#8]).map (fun t =>
    (t.status, [t.faultCtrl, t.faultCol], [some t.faultCode.toNat, t.faultT0, t.faultNeed, t.faultHave, some t.tail])) =
    some (.fault, [some 0x88#8, some 0x40#8], [some 1, some 4, some 22, some 2, some 2]) := by decide +kernel
-- V-UNK-3
theorem test_short_color : (stepped [0x40#8]).map (fun t =>
    (t.status, [t.faultCtrl, t.faultCol], [some t.faultCode.toNat, t.faultT0, t.faultNeed, t.faultHave, some t.tail])) =
    some (.fault, [some 0x40#8, none], [some 1, some 1, some 1, some 0, some 0]) := by decide +kernel
-- V-CAP-1's first record
theorem test_row_cap : (after (step (fedAt 250 ([0x8F#8, 0x40#8] ++ pairs 11 0xFF#8 0x10#8) [.step]))).map
    (fun t => (t.rows, t.rb.length, t.rb[259]?)) = some (260, 260, some (List.replicate 352 1#4)) := by decide +kernel
-- P1
theorem test_run_p1 : (after (step (setPending [.run (pairs 11 0xB5#8 0xFF#8 ++ [0x40#8, 0x88#8])] State.reset))).map
    (fun t => (t.status, t.rb, t.prevBg, t.tail)) =
    some (.done, List.replicate 9 (List.replicate 352 11#4), 5#4, 0) := by decide +kernel
-- the quantizer's table (2.12)
theorem test_quant : [0, 101, 102, 305, 306, 510, 780, 2957, 2958, 3060].map quant = [0, 0, 1, 1, 2, 3, 4, 14, 15, 15] := by
  decide
-- V-PAL-7
theorem test_gray4 : [0#2, 1#2, 2#2, 3#2].map gray4 =
    [⟨0#8, 0#8, 0#8⟩, ⟨85#8, 85#8, 85#8⟩, ⟨170#8, 170#8, 170#8⟩, ⟨255#8, 255#8, 255#8⟩] := by decide
-- the codes of R120
theorem test_codes : eventCode (.textObserved 0 []) = none ∧ eventCode (.unknownLineMode .length 0 0#8 0#8 []) = some 2#4 ∧
    eventCode (.asciiBreakAlreadySet 0 0) = some 4#4 ∧ errorCode (.shortBuffer 0 0) = 1#4 ∧ errorCode (.encoderShape 0) = 5#4 := by
  decide
theorem test_reset_memory : Memory.wf State.reset.input = true ∧ Memory.wf State.reset.encOut = true := by decide
-- a placed table word is the next instruction run (log entries 11 and 12)
theorem test_withFetchWord : (after (step (State.reset.withFetchWord 16 0x3088))).map (fun t => (t.brkValid, t.brkRow)) =
    some (true, 212) := by decide +kernel

/-! ### Witnesses: the hypotheses of each statement can be met together, at the boundaries of each clause -/

/-- A white grid of the encoder's shape (R111). -/
def white : Grid := List.replicate 256 (List.replicate 352 [255#8, 255#8, 255#8])

/-- 212 rows and the break recorded there, at the end of the input. -/
def broken : State := setBreak (fedAt 212 [] [.step])

theorem fedAt_inv (n : Nat) (hn : n ≤ 260) (bytes : List Byte) (ops : List Request) : (fedAt n bytes ops).Inv := by
  have hd := Memory.ofBytes_dense bytes.reverse
  refine ⟨hd, rfl, le_refl _, (List.length_replicate ..).symm, hn, ?_, (fun h => by cases h), Nat.zero_le _, (fun h => by cases h),
    fun _ => ⟨rfl, rfl, rfl, rfl, rfl, rfl⟩, rfl⟩
  intro row hr
  rw [List.eq_of_mem_replicate hr]; exact List.length_replicate ..

theorem test_witness_decode_of_encode :
    ((Instr.brktrig [1#8, 2#8]).wf = true ∧ (Instr.brktrig [1#8, 2#8]).selectedIn ⟨212, false⟩ = true ∧
      (Instr.brktrig [1#8, 2#8]).isEncoderRecord = false) ∧
    (Instr.unrec 0x30#8 0x88#8 [1#8, 2#8]).wf = true ∧ (Instr.unrec 0x30#8 0x88#8 [1#8, 2#8]).selectedIn ⟨211, false⟩ = true ∧
    (Instr.gfx16 3#2 15#4 true 3#2 15#4 (List.replicate 132 0#8)).wf = true := by decide +kernel
theorem test_witness_encode_of_decode : decode fresh [0x00#8, 0x00#8, 0x12#8, 0x34#8, 0x56#8] =
    .ok (.skip00 [0x12#8, 0x34#8], [0x56#8]) := rfl
theorem test_witness_step_runs_record :
    let s := fed [0x30#8, 0x88#8, 0x00#8, 0x00#8, 0x77#8] [.step, .remaining]
    s.pending = .step :: [.remaining] ∧ inputOk s ∧ atRecord s ∧
      decode s.ctx (unread s) = .ok (.skipunit 0x30#8 0x88#8, [0x77#8]) :=
  ⟨rfl, ⟨rfl, by decide⟩, ⟨rfl, by decide, by decide⟩, rfl⟩
-- one byte left; a 2-byte payload with 1 byte and with none left
theorem test_witness_short_record :
    (let s := fed [0x40#8] [.step]; s.pending = .step :: [] ∧ inputOk s ∧ atRecord s ∧ decode s.ctx (unread s) = .error .noColor) ∧
    (let s := fed [0x00#8, 0x00#8, 0x12#8] [.step];
      s.pending = .step :: [] ∧ inputOk s ∧ atRecord s ∧ decode s.ctx (unread s) = .error (.shortPayload 2 1)) ∧
    (let s := fed [0x02#8, 0x01#8] [.step];
      s.pending = .step :: [] ∧ inputOk s ∧ atRecord s ∧ decode s.ctx (unread s) = .error (.shortPayload 2 0)) :=
  ⟨⟨rfl, ⟨rfl, by decide⟩, ⟨rfl, by decide, by decide⟩, rfl⟩, ⟨rfl, ⟨rfl, by decide⟩, ⟨rfl, by decide, by decide⟩, rfl⟩,
    ⟨rfl, ⟨rfl, by decide⟩, ⟨rfl, by decide, by decide⟩, rfl⟩⟩
-- the input is used up with a break recorded at exactly 212 rows; the cap is reached with input left
theorem test_witness_finish :
    (broken.pending = .step :: [] ∧ broken.Inv ∧ broken.status = .running ∧ (broken.tail = 0 ∨ 260 ≤ broken.rows)) ∧
    (let s := fedAt 260 [0x00#8] [.step]; s.pending = .step :: [] ∧ s.Inv ∧ s.status = .running ∧ (s.tail = 0 ∨ 260 ≤ s.rows)) :=
  ⟨⟨rfl, inv_setBreak (fedAt_inv 212 (by decide) _ _) rfl, rfl, .inl rfl⟩, rfl, fedAt_inv 260 (by decide) _ _, rfl,
    .inr (by decide)⟩
theorem test_witness_outside_pass : (setPending [.step] State.reset).pending = .step :: [] ∧
    (setPending [.step] State.reset).status ≠ .running := by decide
theorem test_witness_no_request : State.reset.pending = [] := rfl
theorem test_witness_answer_once : let s := setPending [.remaining, .isEmpty] State.reset
    s.pending = .remaining :: [.isEmpty] ∧ goesOn (step s) := ⟨rfl, _, rfl⟩
theorem test_witness_invariant : (fedAt 212 [0x00#8] [.remaining]).Inv ∧ goesOn (step (fedAt 212 [0x00#8] [.remaining])) :=
  ⟨fedAt_inv 212 (by decide) _ _, _, rfl⟩
-- a record that grows EV, and one that does not
theorem test_witness_record_frames : goesOn (exec (.brktrig []) State.reset) ∧
    ∃ t, exec (.brkdup []) State.reset = .next t ∧ t.ev ≠ State.reset.ev := ⟨⟨_, rfl⟩, _, rfl, by decide⟩
theorem test_witness_record_step : let s := fed [0x00#8, 0x00#8, 0x12#8, 0x34#8] [.step]
    s.pending = .step :: [] ∧ inputOk s ∧ atRecord s ∧ goesOn (step s) :=
  ⟨rfl, ⟨rfl, by decide⟩, ⟨rfl, by decide, by decide⟩, _, rfl⟩
-- any bytes fit when BUF_CAP is absent; 2 bytes fit BUF_CAP = 2 and 3 do not
theorem test_witness_run :
    (let s := setPending [.run [0x01#8, 0x02#8]] State.reset;
      s.pending = .run [0x01#8, 0x02#8] :: [] ∧ (∀ cap, s.bufCap = some cap → 2 ≤ cap) ∧ goesOn (step s)) ∧
    (let s : State := { State.reset with bufCap := some 2, pending := [.run [0x01#8, 0x02#8]] };
      s.pending = .run [0x01#8, 0x02#8] :: [] ∧ ∀ cap, s.bufCap = some cap → 2 ≤ cap) ∧
    (let s : State := { State.reset with bufCap := some 2, pending := [.run [0x01#8, 0x02#8, 0x03#8]] };
      s.pending = .run [0x01#8, 0x02#8, 0x03#8] :: [] ∧ ∃ cap, s.bufCap = some cap ∧ cap < 3) :=
  ⟨⟨rfl, (fun _ h => by cases h), _, rfl⟩, ⟨rfl, fun cap h => by cases h; decide⟩, rfl, 2, rfl, by decide⟩
theorem test_witness_two_runs :
    let s := setPending [.run [0x01#8, 0x02#8]] State.reset
    let s' := setPending [.run [0x01#8, 0x02#8], .readout] (supply ⟨blackPalette, .true16, .hifi, [1#8], []⟩ (setTail 0 (fedAt 9 [7#8] [])))
    s.pending = .run [0x01#8, 0x02#8] :: [] ∧ s'.pending = .run [0x01#8, 0x02#8] :: [.readout] ∧ fits s [0x01#8, 0x02#8] = true ∧
      fits s' [0x01#8, 0x02#8] = true ∧ Config.prevBgReset s.draws = Config.prevBgReset s'.draws ∧
      s.inputs.palette16 = s'.inputs.palette16 ∧ s.inputs.palMode = s'.inputs.palMode ∧ goesOn (step s) ∧ goesOn (step s') :=
  ⟨rfl, rfl, rfl, rfl, rfl, rfl, rfl, ⟨_, rfl⟩, _, rfl⟩
theorem test_witness_fault_stays : let s := setStatus .fault (setPending [.step] State.reset)
    s.pending = .step :: [] ∧ s.status = .fault ∧ (Request.step ≠ .reset) ∧ (∀ b, Request.step ≠ .beginPass b) ∧
      (∀ b, Request.step ≠ .run b) ∧ goesOn (step s) :=
  ⟨rfl, rfl, by decide, (fun _ h => by cases h), (fun _ h => by cases h), _, rfl⟩
theorem test_witness_faulting_record : let s := fed [0x40#8] [.step]
    s.pending = .step :: [] ∧ inputOk s ∧ atRecord s ∧ ∃ t, step s = .next t ∧ t.status = .fault :=
  ⟨rfl, ⟨rfl, by decide⟩, ⟨rfl, by decide, by decide⟩, _, rfl, rfl⟩
theorem test_witness_break_suppresses : broken.pending = .step :: [] ∧ broken.brkValid = true ∧ goesOn (step broken) ∧
    goesOn (exec (.brktrig [0#8, 0#8]) State.reset) := ⟨rfl, rfl, ⟨_, rfl⟩, _, rfl⟩
theorem test_witness_input_immutable : let s := fed [0x40#8] [.load [1#8]]
    s.pending = .load [1#8] :: [] ∧ s.status = .running ∧ (∀ b, Request.load [1#8] ≠ .beginPass b) ∧
      (∀ b, Request.load [1#8] ≠ .run b) ∧ goesOn (step s) :=
  ⟨rfl, rfl, (fun _ h => by cases h), (fun _ h => by cases h), _, rfl⟩
theorem test_witness_latch : let s := setPending [.beginPass []] State.reset
    s.pending = .beginPass [] :: [] ∧ goesOn (step s) := ⟨rfl, _, rfl⟩
theorem test_witness_palette : let s := setPending [.readout] State.reset
    let s' := supply ⟨Vector.replicate 16 ⟨1#8, 2#8, 3#8⟩, .gray4, .fixedMask, [], []⟩ s
    alikeButPalette s s' ∧ goesOn (step s) := ⟨rfl, _, rfl⟩
theorem test_witness_input_ok : inputOk (fed [0x11#8] []) ∧ inputOk State.reset := ⟨⟨rfl, by decide⟩, rfl, by decide⟩
-- each resolution with its multiplier and its payload length (R56, R61)
theorem test_witness_graphics :
    (((0#2).toNat, 4) ∈ [(0, 4), (1, 2), (2, 1)] ∧ (pairs 11 1#8 2#8).length * 4 = 88) ∧
    (((1#2).toNat, 2) ∈ [(0, 4), (1, 2), (2, 1)] ∧ (pairs 22 1#8 2#8).length * 2 = 88) ∧
    (((2#2).toNat, 1) ∈ [(0, 4), (1, 2), (2, 1)] ∧ (pairs 44 1#8 2#8).length * 1 = 88) := by decide +kernel
theorem test_witness_zero_mask : (0#2 ≠ 3#2) ∧ (pairs 11 0#8 2#8).length = cols 0#2 / 8 * 2 ∧
    (∀ k, 2 * k < (pairs 11 0#8 2#8).length → (pairs 11 0#8 2#8)[2 * k]? = some 0#8) := by
  refine ⟨by decide, by decide, ?_⟩
  intro k hk
  have h : (pairs 11 0#8 2#8).length = 22 := by decide
  have : ∀ k, k < 11 → (pairs 11 0#8 2#8)[2 * k]? = some 0#8 := by decide
  exact this k (by omega)
theorem test_witness_image_row : (List.replicate 352 [255#8, 0#8, 7#8]).length = 352 ∧
    ∀ q ∈ List.replicate 352 [255#8, 0#8, 7#8], q.length = 3 :=
  ⟨List.length_replicate .., fun _ h => by rw [List.eq_of_mem_replicate h]; rfl⟩
-- LOAD while RUNNING; 3 bytes against BUF_CAP = 2; exactly 2 bytes against it
theorem test_witness_load :
    (let s := fed [0x40#8] [.load [1#8]]; s.pending = .load [1#8] :: [] ∧ s.status = .running) ∧
    (let s : State := { State.reset with bufCap := some 2, pending := [.load [1#8, 2#8, 3#8]] };
      s.pending = .load [1#8, 2#8, 3#8] :: [] ∧ s.status ≠ .running ∧ ∃ cap, s.bufCap = some cap ∧ cap < 3) ∧
    (let s : State := { State.reset with bufCap := some 2, pending := [.load [1#8, 2#8]] };
      s.pending = .load [1#8, 2#8] :: [] ∧ s.status ≠ .running ∧ ∀ cap, s.bufCap = some cap → 2 ≤ cap) :=
  ⟨⟨rfl, rfl⟩, ⟨rfl, by decide, 2, rfl, by decide⟩, rfl, by decide, (fun cap h => by cases h; decide)⟩
-- TAKE while RUNNING; one byte more than is left; exactly what is left
theorem test_witness_take :
    (let s := fed [0x40#8] [.take 1]; s.pending = .take 1 :: [] ∧ s.status = .running) ∧
    (let s := setPending [.take 2] (loadInput [0x11#8] State.reset); s.pending = .take 2 :: [] ∧ s.status ≠ .running ∧ s.tail < 2) ∧
    (let s := setPending [.take 1] (loadInput [0x11#8] State.reset);
      s.pending = .take 1 :: [] ∧ s.status ≠ .running ∧ 1 ≤ s.tail ∧ inputOk s) :=
  ⟨⟨rfl, rfl⟩, ⟨rfl, by decide, by decide⟩, rfl, by decide, by decide, rfl, by decide⟩
theorem test_witness_cursor_reads :
    (let s := fed [0x40#8] [.peek 70]; s.pending = .peek 70 :: [] ∧ inputOk s) ∧
    (setPending [.remaining] State.reset).pending = .remaining :: [] ∧ (setPending [.isEmpty] State.reset).pending = .isEmpty :: [] :=
  ⟨⟨rfl, rfl, by decide⟩, rfl, rfl⟩
theorem test_witness_begin :
    (let s : State := { State.reset with bufCap := some 1, pending := [.beginPass [1#8, 2#8]] };
      s.pending = .beginPass [1#8, 2#8] :: [] ∧ ∃ cap, s.bufCap = some cap ∧ cap < 2) ∧
    (let s : State := { State.reset with bufCap := some 2, pending := [.beginPass [1#8, 2#8]] };
      s.pending = .beginPass [1#8, 2#8] :: [] ∧ ∀ cap, s.bufCap = some cap → 2 ≤ cap) :=
  ⟨⟨rfl, 1, rfl, by decide⟩, rfl, (fun cap h => by cases h; decide)⟩
theorem test_witness_reset : (setPending [.reset] broken).pending = .reset :: [] := rfl
theorem test_witness_readout :
    (let s := fed [] [.readout]; s.pending = .readout :: [] ∧ s.status ≠ .done) ∧
    (let s : State := { setStatus .done broken with palMode := .gray4, pending := [.readout] };
      s.pending = .readout :: [] ∧ s.status = .done ∧ s.palMode = .gray4) ∧
    (let s := setPending [.readout] (setStatus .done broken);
      s.pending = .readout :: [] ∧ s.status = .done ∧ s.palMode = .true16) :=
  ⟨⟨rfl, by decide⟩, ⟨rfl, rfl, rfl⟩, rfl, rfl, rfl⟩
theorem test_witness_map : (setPending [.map 15#4] State.reset).pending = .map 15#4 :: [] := rfl
theorem white_admitted : admitted white :=
  ⟨List.length_replicate .., fun _ h => by
    rw [List.eq_of_mem_replicate h]
    exact ⟨List.length_replicate .., fun _ hq => by rw [List.eq_of_mem_replicate hq]; rfl⟩⟩
-- the refused variant; 255 rows; an admitted grid, with an overlay at the first and at the last position
theorem test_witness_encode :
    (let s := setPending [.encode [] []] (supply ⟨blackPalette, .true16, .hifi, [], []⟩ State.reset);
      s.pending = .encode [] [] :: [] ∧ s.inputs.encVariant = .hifi) ∧
    (let s := setPending [.encode (white.drop 1) []] State.reset;
      s.pending = .encode (white.drop 1) [] :: [] ∧ s.inputs.encVariant = .fixedMask ∧ ¬ admitted (white.drop 1)) ∧
    (let s := setPending [.encode white [⟨0, [0x48#8], []⟩, ⟨256, [], [[0x41#8]]⟩]] State.reset;
      s.pending = .encode white [⟨0, [0x48#8], []⟩, ⟨256, [], [[0x41#8]]⟩] :: [] ∧ s.inputs.encVariant = .fixedMask ∧
        admitted white) :=
  ⟨⟨rfl, rfl⟩, ⟨rfl, rfl, fun h => by have := h.1; rw [white, List.length_drop, List.length_replicate] at this; omega⟩, rfl, rfl,
    white_admitted⟩
theorem test_witness_supply : (setPending [.adjustPalette] State.reset).pending = .adjustPalette :: [] ∧
    (setPending [.supplyPalette blackPalette] State.reset).pending = .supplyPalette blackPalette :: [] ∧
    (setPending [.supplyPalMode .gray4] State.reset).pending = .supplyPalMode .gray4 :: [] ∧
    (setPending [.supplyEncoder .hifi [1#8] []] State.reset).pending = .supplyEncoder .hifi [1#8] [] :: [] := ⟨rfl, rfl, rfl, rfl⟩
theorem test_witness_round_trip :
    let s := setPending [.encode white [⟨256, [0x41#8], []⟩]] State.reset
    admitted white ∧ s.inputs.encVariant = .fixedMask ∧ s.inputs.colortPre = [] ∧ s.inputs.colortPost = [] ∧
      (∀ cap, s.bufCap = some cap → 23040 + 134 * overlayLines [⟨256, [0x41#8], []⟩] ≤ cap) ∧
      s.pending = [.encode white [⟨256, [0x41#8], []⟩]] :=
  ⟨white_admitted, rfl, rfl, rfl, (fun _ h => by cases h), rfl⟩
-- the quantizer's ranges at their ends (R112)
theorem test_witness_quantizer : quant 3060 = 15 ∧ quant (204 * 1 - 102) = 1 ∧ quant (204 * 1 + 101) = 1 ∧
    quant (204 * 14 - 102) = 14 ∧ quant (204 * 14 + 101) = 14 ∧ quant (12 * 255) = 15 ∧ quant (12 * (17 * 15)) = 15 := by decide

end Sys2Proof.Tests
end

section
/-! The state family. The invariant through every step (R23, R24, R26, R28, R29, R40, R83), what a RUN depends on (R139), the latched
configuration (R32, R145), and the power-on state (R35, R136). -/

namespace Sys2Proof.Machine

/-! ### What the decoder answers -/

/-- Stage L's rows have no condition (R65). -/
theorem lengthStage_selectedIn (c : DispatchCtx) (ctrl col : Byte) : (lengthStage ctrl col).selectedIn c = true := by
  unfold lengthStage
  split
  · rfl
  · split <;> rfl

/-- A record that decodes is a selected one of the decoder's map (R65), and no byte is left that was not there. -/
theorem decode_ok {c : DispatchCtx} {bytes left : List Byte} {i : Instr} (h : decode c bytes = .ok (i, left)) :
    i.selectedIn c = true ∧ i.isEncoderRecord = false ∧ left.length ≤ bytes.length := by
  match bytes with
  | [] => cases h
  | [_] => cases h
  | ctrl :: col :: rest =>
    simp only [decode] at h
    cases hp : plen ctrl col with
    | none =>
      rw [hp] at h
      cases h
      exact ⟨lengthStage_selectedIn c ctrl col, length_noenc ctrl col, by simp; omega⟩
    | some n =>
      simp only [hp] at h
      split at h
      · cases h
      · rename_i hn
        cases h
        have hlen : plen ctrl col = some (rest.take n).length := by
          rw [hp, List.length_take_of_le (by omega)]
        obtain ⟨-, -, hsel, henc⟩ := dispatchStage_spec c ctrl col (rest.take n) hlen
        exact ⟨hsel, henc, by simp; omega⟩

/-! ### The invariant through a pass -/

/-- A graphics record with no multiplier keeps the invariant: it is fault entry with code 3 (R98, R126). -/
theorem inv_noMultiplier {s t : State} (h : s.Inv) {ctrl col : Byte} {res : BitVec 2} (ht : noMultiplier ctrl col res s = .next t) :
    t.Inv := by
  cases ht
  exact inv_enterFault h _ ctrl _ _ _ (.inr rfl)

/-- CheckWidth lets only a row of 352 indices in; any other is fault entry with code 3 (R98, R100). -/
theorem inv_finishRow {s t : State} (h : s.Inv) {ctrl col : Byte} {rep : BitVec 4} {row : Row}
    (ht : finishRow ctrl col rep row s = .next t) : t.Inv := by
  rcases finishRow_cases ht with ⟨hw, rfl⟩ | ⟨-, rfl⟩
  · exact inv_appendRows h row _ hw
  · exact inv_enterFault h _ ctrl _ _ _ (.inr rfl)

/-- A meaning keeps the invariant where the map selects its record: BRKTRIG's own condition is what puts the break at 212 rows. -/
theorem inv_exec {i : Instr} {s t : State} (h : s.Inv) (hsel : i.selectedIn s.ctx = true) (henc : i.isEncoderRecord = false)
    (ht : exec i s = .next t) : t.Inv := by
  cases i with
  | unkmodeR0 ctrl col => obtain ⟨diag, rfl⟩ := unknownMode_cases ht; exact inv_emit h _
  | unkmodeR1 ctrl col => obtain ⟨diag, rfl⟩ := unknownMode_cases ht; exact inv_emit h _
  | unkmodeR2 ctrl col => obtain ⟨diag, rfl⟩ := unknownMode_cases ht; exact inv_emit h _
  | textmark col p => cases ht; exact inv_emit h _
  | brktrig p =>
    cases ht
    have hrows : s.rows = 212 := by
      have htrig : (s.rows == Config.brkAt && !s.brkValid) = true := hsel
      simp only [Bool.and_eq_true, beq_iff_eq] at htrig
      exact htrig.1
    exact inv_setBreak h hrows
  | brkdup p => cases ht; exact inv_emit h _
  | gfx4 res rep en creg csel p =>
    simp only [exec, execGfx4] at ht
    split at ht
    · exact inv_noMultiplier h ht
    · have hwrite : (if cregWriteOn en s then cregWrite creg csel s else s).Inv := by
        split
        · exact inv_cregWrite h creg csel
        · exact h
      exact inv_finishRow hwrite ht
  | gfx16 res rep en creg csel p =>
    simp only [exec, execGfx16] at ht
    split at ht
    · exact inv_noMultiplier h ht
    · exact inv_finishRow (inv_setPrevBg h _) ht
  | skip00 p => cases ht; exact h
  | skipff p => cases ht; exact h
  | skipunit ctrl col => cases ht; exact h
  | unrec ctrl col p => cases ht; exact inv_emit h _
  | encRow16 g => cases henc
  | encText l => cases henc

/-- A record step at the loop test's `T > 0` keeps the invariant; a fault it takes has its control byte (R90, R126). -/
theorem inv_recordStep {s t : State} (h : s.Inv) (htail : 0 < s.tail) (ht : recordStep s = .next t) : t.Inv := by
  have hlen : (unread s).length = s.tail := unread_length h.inputOk
  have hctrl : (unread s)[0]? = some ((unread s)[0]'(by omega)) := List.getElem?_eq_getElem _
  have hle := h.tailLe
  have start (n : Nat) (hn : n ≤ s.tail) : (setTail n (latchT0 s)).Inv := inv_setTail (inv_latch h) n (by simp; omega)
  rw [recordStep_spec h.inputOk htail, hctrl] at ht
  cases hd : decode s.ctx (unread s) with
  | ok r =>
    obtain ⟨i, left⟩ := r
    rw [hd] at ht
    obtain ⟨hsel, henc, hleft⟩ := decode_ok hd
    exact inv_exec (start left.length (by omega)) hsel henc ht
  | error e =>
    rw [hd] at ht
    cases e with
    | noControl => cases ht
    | noColor => cases ht; exact inv_enterFault (start 0 (by omega)) _ _ _ _ _ (.inl rfl)
    | shortPayload need have_ => cases ht; exact inv_enterFault (start (s.tail - 2) (by omega)) _ _ _ _ _ (.inl rfl)

/-- Below the loop test's bounds there is a byte to read (R106). -/
theorem tail_pos_of_not_passOver {s : State} (h : passOver s = false) : 0 < s.tail := by
  simp only [passOver, Bool.or_eq_false_iff, beq_eq_false_iff_ne] at h
  omega

theorem inv_driverStep {s t : State} (h : s.Inv) (ht : driverStep s = .next t) : t.Inv := by
  rcases driverStep_cases ht with ⟨-, rfl⟩ | ⟨hrun, -, rfl⟩ | ⟨-, hover, hrec⟩
  · exact h
  · exact inv_finish h (by simp [hrun])
  · exact inv_recordStep h (tail_pos_of_not_passOver hover) hrec

theorem inv_runSteps {k : Nat} {s t : State} (h : s.Inv) (ht : runSteps k s = .next t) : t.Inv := by
  induction k generalizing s with
  | zero => cases ht; exact h
  | succ k ih =>
    unfold runSteps at ht
    split at ht
    · obtain ⟨u, hu, hrest⟩ := andThen_next ht
      exact ih (inv_driverStep h hu) hrest
    · cases ht; exact h

/-- Every request of the host keeps the invariant (R66). -/
theorem inv_perform {op : Request} {s t : State} (h : s.Inv) (ht : perform op s = .next t) : t.Inv := by
  rcases perform_cases ht with ⟨r, rfl⟩ | ⟨-, rfl⟩ | ⟨b, -, -, rfl⟩ | ⟨n, r, -, -, -, rfl⟩ | ⟨b, -, rfl⟩ | ⟨u, -, hu, rfl⟩ |
    ⟨b, u, -, hu, rfl⟩ | ⟨g, ov, c, -, rfl⟩ | ⟨f, rfl, -⟩
  · exact inv_answer h _
  · exact inv_answer (inv_resetBlock h) _
  · exact inv_answer (inv_loadInput h b) _
  · exact inv_answer (inv_setTail h _ (by have := h.tailLe; omega)) _
  · exact inv_answer (inv_beginBlock h b) _
  · exact inv_answer (inv_driverStep h hu) _
  · exact inv_answer (inv_runSteps (inv_beginBlock h b) hu) _
  · exact inv_deliver h c
  · exact inv_answer (inv_supply h f) _

/-- Settles O16: the step is one request on the queue's rest, and every request keeps the invariant. -/
theorem stepKeepsInvariant : Obligations.StepKeepsInvariant := by
  intro s t h ht
  cases hq : s.pending with
  | nil =>
    simp only [step, hq] at ht
    cases ht
    exact h
  | cons op q =>
    rw [step_perform hq] at ht
    exact inv_perform (inv_setPending h q) ht

/-! ### Two passes over the same input -/

/-- Two states agree on everything of a pass that a host can see (R139). `BRK_ROW` counts only once it is valid (R35), and `T0` not at
all: a record step writes it before it reads it (R90). -/
structure SamePass (s s' : State) : Prop where
  creg : s.creg = s'.creg
  prevBg : s.prevBg = s'.prevBg
  rows : s.rows = s'.rows
  brkValid : s.brkValid = s'.brkValid
  brkRow : s.brkValid = true → s.brkRow = s'.brkRow
  input : s.input = s'.input
  len : s.len = s'.len
  tail : s.tail = s'.tail
  status : s.status = s'.status
  faultCode : s.faultCode = s'.faultCode
  faultT0 : s.faultT0 = s'.faultT0
  faultCtrl : s.faultCtrl = s'.faultCtrl
  faultCol : s.faultCol = s'.faultCol
  faultNeed : s.faultNeed = s'.faultNeed
  faultHave : s.faultHave = s'.faultHave
  rb : s.rb = s'.rb
  ev : s.ev = s'.ev
  palette16 : s.palette16 = s'.palette16
  palMode : s.palMode = s'.palMode

/-- BEGIN leaves the same pass from any two states with equal draws and equal supplied palette and mode (R105). -/
theorem samePass_beginBlock {s s' : State} (bytes : List Byte) (hdraw : Config.prevBgReset s.draws = Config.prevBgReset s'.draws)
    (hpal : s.inputs.palette16 = s'.inputs.palette16) (hmode : s.inputs.palMode = s'.inputs.palMode) :
    SamePass (beginBlock bytes s) (beginBlock bytes s') :=
  ⟨rfl, hdraw, rfl, rfl, fun hbrk => absurd hbrk Bool.false_ne_true, rfl, rfl, rfl, rfl, rfl, rfl, rfl, rfl, rfl, rfl, rfl, rfl,
    hpal, hmode⟩

section
variable {s s' : State} (h : SamePass s s')
include h

theorem samePass_start (n : Nat) : SamePass (setTail n (latchT0 s)) (setTail n (latchT0 s')) := { h with tail := rfl }

theorem samePass_emit (e : Event) : SamePass (emit e s) (emit e s') := { h with ev := by simp [h.ev] }

theorem samePass_setBreak : SamePass (setBreak s) (setBreak s') := { h with brkValid := rfl, brkRow := fun _ => h.rows }

theorem samePass_cregWrite (i : BitVec 2) (v : ColorIndex) : SamePass (cregWrite i v s) (cregWrite i v s') :=
  { h with creg := by simp [h.creg] }

theorem samePass_setPrevBg (v : ColorIndex) : SamePass (setPrevBg v s) (setPrevBg v s') := { h with prevBg := rfl }

theorem samePass_appendRows (row : Row) (k : Nat) : SamePass (appendRows row k s) (appendRows row k s') :=
  { h with rb := by simp [copies, h.rb, h.rows], rows := by simp [copies, h.rows] }

theorem samePass_addChunk (bytes bytes' : List Byte) : SamePass (addChunk bytes s) (addChunk bytes' s') := { h with }

theorem samePass_enterFault (hT0 : s.recT0 = s'.recT0) (c : BitVec 4) (x y : Option Byte) (need have_ : Nat) :
    SamePass (enterFault c x y need have_ s) (enterFault c x y need have_ s') :=
  { h with
    status := rfl, faultCode := rfl, faultT0 := congrArg some hT0, faultCtrl := rfl, faultCol := rfl, faultNeed := rfl
    faultHave := rfl }

theorem samePass_finish : SamePass (finish s) (finish s') := by
  refine { h with status := rfl, rb := ?_ }
  simp only [finish_rb, ← h.brkValid, ← h.rb]
  cases hb : s.brkValid with
  | false => rfl
  | true => rw [h.brkRow hb]

theorem SamePass.ctx : s.ctx = s'.ctx := by simp [State.ctx, h.rows, h.brkValid]

theorem SamePass.unread : unread s = unread s' := by simp [Machine.unread, inputBytes, h.input, h.tail]

theorem SamePass.passOver : passOver s = passOver s' := by simp [Machine.passOver, h.tail, h.rows]

theorem SamePass.isBusy : isBusy s = isBusy s' := by simp [Machine.isBusy, h.status]

theorem SamePass.inputOk (hok : inputOk s) : inputOk s' := by
  simpa [Machine.inputOk, h.input, h.len, h.tail] using hok

theorem SamePass.outGrid : outGrid s = outGrid s' := by simp [Machine.outGrid, h.rb, h.palette16]

end

/-- Two outcomes that are both next states leave the same pass. -/
def SamePassNext (o o' : Host.Outcome State Fault Refusal) : Prop := ∀ t t', o = .next t → o' = .next t' → SamePass t t'

theorem samePassNext_next {t t' : State} (h : SamePass t t') : SamePassNext (.next t) (.next t') := by
  rintro _ _ ⟨⟩ ⟨⟩
  exact h

section
variable {s s' : State} (h : SamePass s s')
include h

theorem samePass_unknownMode (hT0 : s.recT0 = s'.recT0) (hok : inputOk s) (ctrl col : Byte) :
    SamePassNext (unknownMode ctrl col s) (unknownMode ctrl col s') := by
  have hdiag : lastUnread Config.diagPeek s = lastUnread Config.diagPeek s' := by
    simp [lastUnread, inputBytes, h.input, h.tail]
  rw [unknownMode_next hok, unknownMode_next (h.inputOk hok), ← hdiag, ← hT0]
  exact samePassNext_next (samePass_emit h _)

theorem samePass_finishRow (hT0 : s.recT0 = s'.recT0) (ctrl col : Byte) (rep : BitVec 4) (row : Row) :
    SamePassNext (finishRow ctrl col rep row s) (finishRow ctrl col rep row s') := by
  unfold finishRow
  split
  · exact samePassNext_next (samePass_appendRows h _ _)
  · exact samePassNext_next (samePass_enterFault h hT0 _ _ _ _ _)

/-- A meaning reads of the state only what the pass shows, and `T0`. -/
theorem samePass_exec (hT0 : s.recT0 = s'.recT0) (hok : inputOk s) (i : Instr) : SamePassNext (exec i s) (exec i s') := by
  cases i with
  | unkmodeR0 ctrl col => exact samePass_unknownMode h hT0 hok ctrl col
  | unkmodeR1 ctrl col => exact samePass_unknownMode h hT0 hok ctrl col
  | unkmodeR2 ctrl col => exact samePass_unknownMode h hT0 hok ctrl col
  | textmark col p =>
    simp only [exec, execTextmark, ← hT0]
    exact samePassNext_next (samePass_emit h _)
  | brktrig p => exact samePassNext_next (samePass_setBreak h)
  | brkdup p =>
    simp only [exec, execBrkdup, ← hT0, ← h.rows]
    exact samePassNext_next (samePass_emit h _)
  | gfx4 res rep en creg csel p =>
    have hon : cregWriteOn en s' = cregWriteOn en s := by simp [cregWriteOn, h.brkValid]
    simp only [exec, execGfx4, hon]
    split
    · exact samePassNext_next (samePass_enterFault h hT0 _ _ _ _ _)
    · cases cregWriteOn en s with
      | true =>
        have hwrite := samePass_cregWrite h creg csel
        simp only [↓reduceIte, ← hwrite.creg]
        exact samePass_finishRow hwrite hT0 _ _ _ _
      | false =>
        simp only [Bool.false_eq_true, ↓reduceIte, ← h.creg]
        exact samePass_finishRow h hT0 _ _ _ _
  | gfx16 res rep en creg csel p =>
    simp only [exec, execGfx16, ← h.prevBg]
    split
    · exact samePassNext_next (samePass_enterFault h hT0 _ _ _ _ _)
    · exact samePass_finishRow (samePass_setPrevBg h (prevAfterRow s.prevBg p)) hT0 _ _ _ _
  | skip00 p => exact samePassNext_next h
  | skipff p => exact samePassNext_next h
  | skipunit ctrl col => exact samePassNext_next h
  | unrec ctrl col p =>
    simp only [exec, execUnrec, ← hT0]
    exact samePassNext_next (samePass_emit h _)
  | encRow16 g => exact samePassNext_next (samePass_addChunk h _ _)
  | encText l => exact samePassNext_next (samePass_addChunk h _ _)

/-- A record step decodes the same record in both states, and latches the same `T0` before its meaning reads it (R90). -/
theorem samePass_recordStep (hok : inputOk s) (htail : 0 < s.tail) : SamePassNext (recordStep s) (recordStep s') := by
  rw [recordStep_spec hok htail, recordStep_spec (h.inputOk hok) (h.tail ▸ htail), ← h.ctx, ← h.unread, ← h.tail]
  cases hd : decode s.ctx (unread s) with
  | ok r =>
    obtain ⟨i, left⟩ := r
    obtain ⟨-, -, hleft⟩ := decode_ok hd
    have hle : left.length ≤ s.tail := unread_length hok ▸ hleft
    exact samePass_exec (samePass_start h _) h.tail (kept_inputOk hok (kept_start hle)) i
  | error e =>
    cases e with
    | noControl => rintro _ _ ⟨⟩
    | noColor => exact samePassNext_next (samePass_enterFault (samePass_start h _) h.tail _ _ _ _ _)
    | shortPayload need have_ => exact samePassNext_next (samePass_enterFault (samePass_start h _) h.tail _ _ _ _ _)

theorem samePass_driverStep (hok : inputOk s) : SamePassNext (driverStep s) (driverStep s') := by
  unfold driverStep
  rw [← h.status, ← h.passOver]
  cases s.status with
  | idle => exact samePassNext_next h
  | done => exact samePassNext_next h
  | fault => exact samePassNext_next h
  | running =>
    cases hover : passOver s with
    | true => exact samePassNext_next (samePass_finish h)
    | false => exact samePass_recordStep h hok (tail_pos_of_not_passOver hover)

end

/-- Two loops from the same pass stay in step: each stops when the other does. -/
theorem samePass_runSteps {k : Nat} {s s' : State} (h : SamePass s s') (hok : inputOk s) :
    SamePassNext (runSteps k s) (runSteps k s') := by
  induction k generalizing s s' with
  | zero => exact samePassNext_next h
  | succ k ih =>
    unfold runSteps
    rw [← h.isBusy]
    split
    · intro t t' ht ht'
      obtain ⟨u, hu, hrest⟩ := andThen_next ht
      obtain ⟨u', hu', hrest'⟩ := andThen_next ht'
      exact ih (samePass_driverStep h hok u u' hu hu') (kept_inputOk hok (driverStep_kept hu)) t t' hrest hrest'
    · exact samePassNext_next h

/-- The cursor can read what BEGIN has loaded. -/
theorem inputOk_beginBlock (bytes : List Byte) (s : State) : inputOk (beginBlock bytes s) :=
  ⟨Memory.ofBytes_dense bytes, le_refl _⟩

/-- A RUN that fits is its loop from BEGIN, with `STATUS` answered (R108). -/
theorem step_run_next {s t : State} {bytes : List Byte} {q : List Request} (hq : s.pending = .run bytes :: q)
    (hfits : fits s bytes = true) (ht : step s = .next t) :
    ∃ u, runSteps (stepBound bytes.length) (beginBlock bytes (setPending q s)) = .next u ∧ t = answer (.status u.status) u := by
  rw [step_perform hq] at ht
  have hfits' : fits (setPending q s) bytes = true := hfits
  simp only [perform, opRun, hfits', if_true] at ht
  obtain ⟨u, hu, hans⟩ := andThen_next ht
  cases hans
  exact ⟨u, hu, rfl⟩

/-- Settles O28: BEGIN makes the two passes the same, and the loop keeps them so. -/
theorem runDependsOnlyOnItsInputs : Obligations.RunDependsOnlyOnItsInputs := by
  intro s s' t t' bytes q q' hq hq' hfits hfits' hdraw hpal hmode ht ht'
  obtain ⟨u, hu, rfl⟩ := step_run_next hq hfits ht
  obtain ⟨u', hu', rfl⟩ := step_run_next hq' hfits' ht'
  have hbegin : SamePass (beginBlock bytes (setPending q s)) (beginBlock bytes (setPending q' s')) :=
    samePass_beginBlock bytes hdraw hpal hmode
  have h : SamePass u u' := samePass_runSteps hbegin (inputOk_beginBlock bytes _) u u' hu hu'
  exact ⟨h.status, h.rb, h.rows, h.ev, h.tail, h.creg, h.prevBg, h.brkValid, h.brkRow, h.faultCode, h.faultT0, h.faultCtrl,
    h.faultCol, h.faultNeed, h.faultHave, h.palette16, h.palMode, h.outGrid⟩

/-! ### The latched configuration -/

/-- Settles O26: only BEGIN, alone or at the head of RUN, writes what is latched. -/
theorem configurationLatchedAtBegin : Obligations.ConfigurationLatchedAtBegin := by
  intro s t op q hq ht
  rw [step_perform hq] at ht
  rcases perform_cases ht with ⟨r, rfl⟩ | ⟨-, rfl⟩ | ⟨b, -, -, rfl⟩ | ⟨n, r, -, -, -, rfl⟩ | ⟨b, rfl, rfl⟩ | ⟨u, -, hu, rfl⟩ |
    ⟨b, u, rfl, hu, rfl⟩ | ⟨g, ov, c, -, rfl⟩ | ⟨f, rfl, -⟩
  · exact ⟨rfl, .inl ⟨rfl, rfl⟩⟩
  · exact ⟨rfl, .inl ⟨rfl, rfl⟩⟩
  · exact ⟨rfl, .inl ⟨rfl, rfl⟩⟩
  · exact ⟨rfl, .inl ⟨rfl, rfl⟩⟩
  -- BEGIN
  · exact ⟨rfl, .inr ⟨rfl, rfl, b, .inl rfl⟩⟩
  -- STEP
  · have hk := driverStep_kept hu
    exact ⟨hk.bufCap, .inl ⟨hk.palette16, hk.palMode⟩⟩
  -- RUN
  · have hk := runSteps_kept hu
    exact ⟨hk.bufCap, .inr ⟨hk.palette16, hk.palMode, b, .inr rfl⟩⟩
  -- ENCODE, and then the supply requests
  · simp [deliver]
  · exact ⟨rfl, .inl ⟨rfl, rfl⟩⟩

/-- Settles O50: each supply request is one write of the supplied inputs, answered. -/
theorem supplyChangesInputsOnly : Obligations.SupplyChangesInputsOnly := by
  intro s p m v pre post q
  refine ⟨fun hq => ?_, fun hq => ?_, fun hq => ?_, fun hq => ?_⟩
  all_goals
    rw [step_perform hq]
    rfl

/-! ### Power-on -/

/-- Settles O15: nothing is loaded, decoded, encoded or faulted yet. -/
theorem resetMeetsInvariant : Obligations.ResetMeetsInvariant where
  inputDense := rfl
  outDense := rfl
  tailLe := le_refl _
  rowsEq := rfl
  rowsLe := Nat.zero_le _
  rowWidth := fun _ hrow => absurd hrow List.not_mem_nil
  brkAt := fun hbrk => by cases hbrk
  brkRange := Nat.zero_le _
  faulted := fun hfault => by cases hfault
  unfaulted := fun _ => ⟨rfl, rfl, rfl, rfl, rfl, rfl⟩
  chunksNil := rfl

/-- Settles O18: the reset state is written out field by field, so each value is read off. -/
theorem powerOnState : Obligations.PowerOnState :=
  ⟨rfl, rfl, rfl, rfl, rfl, rfl, rfl, rfl, rfl, rfl, rfl, rfl, rfl, rfl, rfl⟩

end Sys2Proof.Machine
end

section
/-! The memory family. Queue and answers (R51, R66): each request answers once and with an answer of its kind, RUN with DONE or FAULT
because its loop reaches the end of the pass (R108, R109); and what a running pass cannot have written (R53, R82, R88). -/

namespace Sys2Proof.Machine

/-! ### How many bytes PEEK answers -/

/-- `MemRead(a, n)`, where it is defined, is `n` bytes (R41). -/
theorem memRead_length {s : State} {a n : Nat} {v : List Byte} (h : memRead s a n = some v) : v.length = n := by
  unfold memRead at h
  split at h
  · exact Memory.readRange_length h
  · cases h

/-- PEEK answers at most what it is asked for (R85). -/
theorem peekBytes_length_le {s : State} {n : Nat} {v : List Byte} (h : peekBytes n s = some v) : v.length ≤ n :=
  calc v.length = min n s.tail := memRead_length h
    _ ≤ n := Nat.min_le_left _ _

/-! ### The loop of RUN reaches the end of the pass -/

/-- A record step faults, or it leaves `STATUS` alone and takes its header's two bytes at least (R90, R126). -/
theorem recordStep_progress {s t : State} (h : recordStep s = .next t) :
    t.status = .fault ∨ (t.status = s.status ∧ t.tail + 2 ≤ s.tail) := by
  rcases recordStep_cases h with ⟨n, c, x, y, k, j, rfl, -, -⟩ | ⟨i, n, hexec, hn, htwo, -, -⟩
  · exact .inl rfl
  · obtain ⟨-, htail, -⟩ := exec_kept hexec
    rw [setTail_tail] at htail
    rcases exec_status hexec with hsame | hfault
    · exact .inr ⟨hsame, by omega⟩
    · exact .inl hfault

/-- A STEP of a running pass ends it, or leaves it running with two bytes fewer to read (R106, R109). -/
theorem driverStep_progress {s t : State} (hrun : s.status = .running) (h : driverStep s = .next t) :
    t.status = .done ∨ t.status = .fault ∨ (t.status = .running ∧ t.tail + 2 ≤ s.tail) := by
  rcases driverStep_cases h with ⟨hout, -⟩ | ⟨-, -, rfl⟩ | ⟨-, -, hrec⟩
  · exact absurd hrun hout
  · exact .inl rfl
  · rcases recordStep_progress hrec with hfault | ⟨hsame, htail⟩
    · exact .inr (.inl hfault)
    · exact .inr (.inr ⟨hsame.trans hrun, htail⟩)

/-- `⌊T/2⌋ + 1` STEPs end a running pass in DONE or FAULT (R108, R109). -/
theorem runSteps_ends {k : Nat} {s t : State} (hrun : s.status = .running) (hk : s.tail / 2 + 1 ≤ k)
    (h : runSteps k s = .next t) : t.status = .done ∨ t.status = .fault := by
  induction k generalizing s with
  | zero => omega
  | succ k ih =>
    have hbusy : isBusy s = true := by simp [isBusy, hrun]
    rw [runSteps, if_pos hbusy] at h
    obtain ⟨u, hu, hrest⟩ := andThen_next h
    have stopped (hstop : u.status ≠ .running) : t = u := by
      rw [runSteps_stop hstop] at hrest
      cases hrest
      rfl
    rcases driverStep_progress hrun hu with hdone | hfault | ⟨hgo, htail⟩
    · rw [stopped (by simp [hdone])]
      exact .inl hdone
    · rw [stopped (by simp [hfault])]
      exact .inr hfault
    · exact ih hgo (by omega) hrest

/-! ### One answer of the request's kind -/

/-- From `s` to `t` the queue stays, and one answer that `op` can have is appended. -/
def AnswersOnce (op : Request) (s t : State) : Prop :=
  t.pending = s.pending ∧ ∃ r, t.replies = s.replies ++ [r] ∧ validAnswer op r

/-- An answer given after work that touches neither the queue nor the answers is the one answer. -/
theorem answersOnce_answer {op : Request} {s u : State} {r : Reply} (hpending : u.pending = s.pending)
    (hreplies : u.replies = s.replies) (hvalid : validAnswer op r) : AnswersOnce op s (answer r u) :=
  ⟨hpending, r, congrArg (· ++ [r]) hreplies, hvalid⟩

section
variable {s t : State}

theorem opLoad_answersOnce {bytes : List Byte} (h : opLoad bytes s = .next t) : AnswersOnce (.load bytes) s t := by
  unfold opLoad at h
  split at h
  · cases h; exact answersOnce_answer rfl rfl (.inr (.inl rfl))
  · split at h
    · cases h; exact answersOnce_answer rfl rfl (.inl rfl)
    · cases h; exact answersOnce_answer rfl rfl (.inr (.inr rfl))

theorem opTake_answersOnce {n : Nat} (h : opTake n s = .next t) : AnswersOnce (.take n) s t := by
  unfold opTake at h
  split at h
  · cases h; exact answersOnce_answer rfl rfl (.inr (.inr rfl))
  · split at h
    · rename_i v s1 htake
      cases h
      obtain ⟨-, rfl⟩ := takeBytes_taken htake
      exact answersOnce_answer rfl rfl (.inl ⟨v, takeBytes_length htake, rfl⟩)
    · rename_i need have_ hshort
      cases h
      obtain ⟨hlt, rfl, rfl⟩ := takeBytes_short hshort
      exact answersOnce_answer rfl rfl (.inr (.inl ⟨_, hlt, rfl⟩))
    · cases h

theorem opPeek_answersOnce {n : Nat} (h : opPeek n s = .next t) : AnswersOnce (.peek n) s t := by
  unfold opPeek at h
  split at h
  · rename_i v hpeek
    cases h
    exact answersOnce_answer rfl rfl ⟨v, peekBytes_length_le hpeek, rfl⟩
  · cases h

theorem opBegin_answersOnce {bytes : List Byte} (h : opBegin bytes s = .next t) : AnswersOnce (.beginPass bytes) s t := by
  unfold opBegin at h
  split at h
  · cases h; exact answersOnce_answer rfl rfl (.inl rfl)
  · cases h; exact answersOnce_answer rfl rfl (.inr rfl)

theorem opStep_answersOnce (h : opStep s = .next t) : AnswersOnce .step s t := by
  obtain ⟨u, hu, hans⟩ := andThen_next h
  cases hans
  have hkept := driverStep_kept hu
  exact answersOnce_answer hkept.pending hkept.replies ⟨_, rfl⟩

/-- BEGIN puts `T` at the input's length, so the bound of R109 is enough for the loop to end. -/
theorem opRun_answersOnce {bytes : List Byte} (h : opRun bytes s = .next t) : AnswersOnce (.run bytes) s t := by
  unfold opRun at h
  split at h
  · obtain ⟨u, hu, hans⟩ := andThen_next h
    cases hans
    have hkept := runSteps_kept hu
    have hbound : (beginBlock bytes s).tail / 2 + 1 ≤ stepBound bytes.length := by
      rw [beginBlock_tail, stepBound]
      omega
    refine answersOnce_answer hkept.pending hkept.replies ?_
    rcases runSteps_ends rfl hbound hu with hdone | hfault
    · exact .inl (congrArg Reply.status hdone)
    · exact .inr (.inl (congrArg Reply.status hfault))
  · cases h; exact answersOnce_answer rfl rfl (.inr (.inr rfl))

theorem opReadout_answersOnce (h : opReadout s = .next t) : AnswersOnce .readout s t := by
  unfold opReadout at h
  split at h
  · cases h; exact answersOnce_answer rfl rfl (.inr (.inl rfl))
  · cases h; exact answersOnce_answer rfl rfl (.inr (.inl rfl))
  · cases h; exact answersOnce_answer rfl rfl (.inr (.inl rfl))
  · split at h
    · cases h; exact answersOnce_answer rfl rfl (.inr (.inr rfl))
    · cases h; exact answersOnce_answer rfl rfl (.inl ⟨_, rfl⟩)

theorem opEncode_answersOnce {g : Grid} {ov : List Overlay} (h : opEncode g ov s = .next t) :
    AnswersOnce (.encode g ov) s t := by
  unfold opEncode at h
  split at h
  · cases h; exact answersOnce_answer rfl rfl (.inr (.inr rfl))
  · split at h
    · rw [emitItems_bytes] at h
      cases h
      exact answersOnce_answer rfl rfl (.inl ⟨_, rfl⟩)
    · cases h; exact answersOnce_answer rfl rfl (.inr (.inl rfl))

/-- Every request of the host answers once, as R66, R108 and R128 say. -/
theorem perform_answersOnce {op : Request} (h : perform op s = .next t) : AnswersOnce op s t := by
  cases op with
  | reset => cases h; exact answersOnce_answer rfl rfl rfl
  | load bytes => exact opLoad_answersOnce h
  | take n => exact opTake_answersOnce h
  | peek n => exact opPeek_answersOnce h
  | remaining => cases h; exact answersOnce_answer rfl rfl ⟨_, rfl⟩
  | isEmpty => cases h; exact answersOnce_answer rfl rfl ⟨_, rfl⟩
  | beginPass bytes => exact opBegin_answersOnce h
  | step => exact opStep_answersOnce h
  | run bytes => exact opRun_answersOnce h
  | readout => exact opReadout_answersOnce h
  | map c => cases h; exact answersOnce_answer rfl rfl ⟨_, rfl⟩
  | encode g ov => exact opEncode_answersOnce h
  | supplyPalette p => cases h; exact answersOnce_answer rfl rfl rfl
  | adjustPalette => cases h; exact answersOnce_answer rfl rfl rfl
  | supplyPalMode m => cases h; exact answersOnce_answer rfl rfl rfl
  | supplyEncoder v pre post => cases h; exact answersOnce_answer rfl rfl rfl

end

/-- Settles O14: the step performs the first request on the queue's rest, and every request answers once. -/
theorem stepAnswersFirstRequestOnce : Obligations.StepAnswersFirstRequestOnce := by
  intro s op q hq
  refine ⟨step_perform hq, fun t ht => ?_⟩
  rw [step_perform hq] at ht
  exact perform_answersOnce ht

/-! ### The input of a running pass -/

/-- Settles O25: of the requests that write the input or `T`, LOAD and TAKE are refused while RUNNING, BEGIN and RUN are left out, and
STEP only lowers `T`. -/
theorem inputImmutableWhileRunning : Obligations.InputImmutableWhileRunning := by
  intro s t op q hq hrun hbegin hnotRun ht
  rw [step_perform hq] at ht
  have hbusy : isBusy (setPending q s) = true := by simp [isBusy, hrun]
  rcases perform_cases ht with ⟨r, rfl⟩ | ⟨-, rfl⟩ | ⟨b, -, hidle, -⟩ | ⟨n, r, -, hidle, -, -⟩ | ⟨b, rfl, -⟩ | ⟨u, -, hu, rfl⟩ |
    ⟨b, u, rfl, -, -⟩ | ⟨g, ov, c, -, rfl⟩ | ⟨f, rfl, -⟩
  · exact ⟨rfl, rfl, le_refl _⟩
  · exact ⟨rfl, rfl, le_refl _⟩
  -- LOAD and TAKE
  · exact absurd hbusy (by simp [hidle])
  · exact absurd hbusy (by simp [hidle])
  · exact absurd rfl (hbegin b)
  -- STEP
  · have hkept := driverStep_kept hu
    exact ⟨hkept.input, hkept.len, hkept.tail⟩
  · exact absurd rfl (hnotRun b)
  -- ENCODE, and then the supply requests
  · simp [deliver]
  · exact ⟨rfl, rfl, le_refl _⟩

end Sys2Proof.Machine
end

section
/-! The encoding family. The header's fields and the payload length (R55, R58, R60), `decode` and `encode` as inverses of each other
on what the opcode map selects (R54, R64, R65), and the records of the encoder as the decoder reads them (R68). -/

namespace Sys2Proof.Machine

/-! ### The two stages of the opcode map -/

/-- Stage L by the resolution field: the rows of the three unknown line modes (R65, R91). -/
theorem lengthStage_eq {ctrl col : Byte} (hnone : plen ctrl col = none) :
    lengthStage ctrl col =
      if resOf ctrl = 0#2 then .unkmodeR0 ctrl col
      else if resOf ctrl = 1#2 then .unkmodeR1 ctrl col
      else .unkmodeR2 ctrl col := by
  obtain ⟨hnuc, hdisp, -⟩ := plen_eq_none.1 hnone
  simp [lengthStage, hits_unkmodeR0, hits_unkmodeR1, hnuc, hdisp]

/-- What stage L answers is a well-formed record with the header it was given and no payload (R65, R91). -/
theorem lengthStage_spec {ctrl col : Byte} (hnone : plen ctrl col = none) :
    encode (lengthStage ctrl col) = [ctrl, col] ∧ (lengthStage ctrl col).wf = true := by
  obtain ⟨hnuc, hdisp, hres⟩ := plen_eq_none.1 hnone
  rw [lengthStage_eq hnone]
  rcases bits2_cases (resOf ctrl) with h | h | h | h
  · simp [h, encode, ctrlOf, colOf, payloadOf, Instr.wf, hits_unkmodeR0, hnuc, hdisp]
  · simp [h, encode, ctrlOf, colOf, payloadOf, Instr.wf, hits_unkmodeR1, hnuc, hdisp]
  · simp [h, encode, ctrlOf, colOf, payloadOf, Instr.wf, hits_unkmodeR2, hnuc, hdisp]
  · exact absurd h hres

/-- Stage D with each match of the map read on the header's fields (R64, R65). -/
theorem dispatchStage_eq (c : DispatchCtx) (ctrl col : Byte) (p : List Byte) :
    dispatchStage c ctrl col p =
      if ctrl = 0x7A#8 then .textmark col p
      else if (ctrl = 0x30#8 ∧ col = 0x88#8) ∧ triggers c = true then .brktrig p
      else if (ctrl = 0x30#8 ∧ col = 0x88#8) ∧ c.brkValid = true then .brkdup p
      else if dispOf ctrl = 0#2 ∧ nucOf col = true then
        .gfx4 (resOf ctrl) (repOf ctrl) (enOf col) (cregOf col) (cselOf col) p
      else if dispOf ctrl = 2#2 ∧ nucOf col = true then
        .gfx16 (resOf ctrl) (repOf ctrl) (enOf col) (cregOf col) (cselOf col) p
      else if ctrl = 0x00#8 ∧ col = 0x00#8 then .skip00 p
      else if ctrl = 0xFF#8 ∧ col = 0xFF#8 then .skipff p
      else if nucOf col = false ∧ zeroPair p = true then .skipunit ctrl col
      else .unrec ctrl col p := by
  simp only [dispatchStage, hits_textmark, hits_brk, hits_gfx4, hits_gfx16, hits_skip00, hits_skipff, hits_skipunit,
    Bool.and_eq_true, decide_eq_true_eq]

/-- The condition on the rows after the break's: neither BRKTRIG nor BRKDUP claims the header (R65, R93). -/
theorem unclaimed_iff (c : DispatchCtx) (ctrl col : Byte) :
    (headerWord ctrl col != Config.brkHeader || !(triggers c || c.brkValid)) = true ↔
      ¬ ((ctrl = 0x30#8 ∧ col = 0x88#8) ∧ triggers c = true) ∧ ¬ ((ctrl = 0x30#8 ∧ col = 0x88#8) ∧ c.brkValid = true) := by
  have hbrk : headerWord ctrl col = Config.brkHeader ↔ ctrl = 0x30#8 ∧ col = 0x88#8 := headerWord_eq ctrl col 0x30#8 0x88#8
  rw [Bool.or_eq_true, bne_iff_ne, ne_eq, hbrk]
  by_cases h : ctrl = 0x30#8 ∧ col = 0x88#8 <;> simp [h]

/-! ### What `decode` answers -/

/-- A header whose payload length is UNKNOWN is a record by itself (R60, R65). -/
theorem decode_lengthStage {c : DispatchCtx} {ctrl col : Byte} (hnone : plen ctrl col = none) (rest : List Byte) :
    decode c (ctrl :: col :: rest) = .ok (lengthStage ctrl col, rest) := by
  simp [decode, hnone]

/-- A header followed by a payload of the announced length is a record (R60, R65). -/
theorem decode_dispatchStage {c : DispatchCtx} {ctrl col : Byte} {p : List Byte} (hsome : plen ctrl col = some p.length)
    (rest : List Byte) : decode c (ctrl :: col :: (p ++ rest)) = .ok (dispatchStage c ctrl col p, rest) := by
  simp [decode, hsome]

/-- There is no other way to decode. -/
theorem decode_cases {c : DispatchCtx} {bytes rest : List Byte} {i : Instr} (h : decode c bytes = .ok (i, rest)) :
    ∃ ctrl col,
      (plen ctrl col = none ∧ bytes = ctrl :: col :: rest ∧ i = lengthStage ctrl col) ∨
      (∃ p, plen ctrl col = some p.length ∧ bytes = ctrl :: col :: (p ++ rest) ∧ i = dispatchStage c ctrl col p) := by
  match bytes with
  | [] => cases h
  | [_] => cases h
  | ctrl :: col :: more =>
    refine ⟨ctrl, col, ?_⟩
    cases hp : plen ctrl col with
    | none =>
      rw [decode_lengthStage hp] at h
      cases h
      exact .inl ⟨rfl, rfl, rfl⟩
    | some n =>
      by_cases hshort : more.length < n
      · simp [decode, hp, hshort] at h
      · have hlen : plen ctrl col = some (more.take n).length := by
          rw [hp, List.length_take_of_le (by omega)]
        rw [← List.take_append_drop n more, decode_dispatchStage hlen] at h
        cases h
        exact .inr ⟨more.take n, hp ▸ hlen, by rw [List.take_append_drop], rfl⟩

/-- Settles O6: each stage answers a record with the header and payload it was given. -/
theorem encodeOfDecode : Obligations.EncodeOfDecode := by
  intro c bytes rest i h
  obtain ⟨hsel, henc, -⟩ := decode_ok h
  obtain ⟨ctrl, col, ⟨hnone, rfl, rfl⟩ | ⟨p, hsome, rfl, rfl⟩⟩ := decode_cases h
  · obtain ⟨hbytes, hwf⟩ := lengthStage_spec hnone
    exact ⟨by rw [hbytes]; rfl, hwf, hsel, henc⟩
  · obtain ⟨⟨hctrl, hcol, hpay⟩, hwf, -, -⟩ := dispatchStage_spec c ctrl col p hsome
    exact ⟨by rw [encode, hctrl, hcol, hpay]; rfl, hwf, hsel, henc⟩

/-! ### Each row of the map is read back from its own record -/

/-- The opcode map classifies the header and payload of `i`'s record as `i`, in the stage its length belongs to. -/
def ReadBack (c : DispatchCtx) (i : Instr) : Prop :=
  (plen (ctrlOf i) (colOf i) = none ∧ payloadOf i = [] ∧ lengthStage (ctrlOf i) (colOf i) = i) ∨
  (plen (ctrlOf i) (colOf i) = some (payloadOf i).length ∧ dispatchStage c (ctrlOf i) (colOf i) (payloadOf i) = i)

theorem decode_encode_of_readBack {c : DispatchCtx} {i : Instr} (h : ReadBack c i) (rest : List Byte) :
    decode c (encode i ++ rest) = .ok (i, rest) := by
  rcases h with ⟨hnone, hpay, hstage⟩ | ⟨hsome, hstage⟩
  · rw [encode, hpay]
    exact (decode_lengthStage hnone rest).trans (by rw [hstage])
  · exact (decode_dispatchStage hsome rest).trans (by rw [hstage])

section
variable {c : DispatchCtx}

/-- The rows of stage L are told apart by the resolution field alone (R65, R91). -/
theorem readBack_unknownMode {i : Instr} {res : BitVec 2}
    (hfields : (dispOf (ctrlOf i) = 1#2 ∨ dispOf (ctrlOf i) = 3#2) ∧ resOf (ctrlOf i) = res ∧ nucOf (colOf i) = true)
    (hres : res ≠ 3#2) (hpay : payloadOf i = [])
    (hrow : (if res = 0#2 then .unkmodeR0 (ctrlOf i) (colOf i)
      else if res = 1#2 then .unkmodeR1 (ctrlOf i) (colOf i)
      else .unkmodeR2 (ctrlOf i) (colOf i)) = i) : ReadBack c i := by
  obtain ⟨hdisp, rfl, hnuc⟩ := hfields
  have hnone : plen (ctrlOf i) (colOf i) = none := plen_eq_none.2 ⟨hnuc, hdisp, hres⟩
  exact .inl ⟨hnone, hpay, (lengthStage_eq hnone).trans hrow⟩

theorem readBack_unkmodeR0 {ctrl col : Byte} (hwf : (Instr.unkmodeR0 ctrl col).wf = true) : ReadBack c (.unkmodeR0 ctrl col) := by
  simp only [Instr.wf, hits_unkmodeR0, decide_eq_true_eq] at hwf
  exact readBack_unknownMode hwf (by decide) rfl rfl

theorem readBack_unkmodeR1 {ctrl col : Byte} (hwf : (Instr.unkmodeR1 ctrl col).wf = true) : ReadBack c (.unkmodeR1 ctrl col) := by
  simp only [Instr.wf, hits_unkmodeR1, decide_eq_true_eq] at hwf
  exact readBack_unknownMode hwf (by decide) rfl rfl

theorem readBack_unkmodeR2 {ctrl col : Byte} (hwf : (Instr.unkmodeR2 ctrl col).wf = true) : ReadBack c (.unkmodeR2 ctrl col) := by
  simp only [Instr.wf, hits_unkmodeR2, decide_eq_true_eq] at hwf
  exact readBack_unknownMode hwf (by decide) rfl rfl

theorem readBack_textmark {col : Byte} {p : List Byte} (hwf : (Instr.textmark col p).wf = true) : ReadBack c (.textmark col p) := by
  have hlen : plen Config.textCtrl col = some p.length := by simpa [Instr.wf] using hwf
  exact .inr ⟨hlen, by simp [dispatchStage_eq, ctrlOf, colOf, payloadOf]⟩

theorem readBack_brktrig {p : List Byte} (hwf : (Instr.brktrig p).wf = true) (hsel : (Instr.brktrig p).selectedIn c = true) :
    ReadBack c (.brktrig p) := by
  have hlen : p.length = 2 := by simpa [Instr.wf] using hwf
  have htrig : triggers c = true := hsel
  have hplen : plen 0x30#8 0x88#8 = some 2 := by decide
  exact .inr ⟨by rw [payloadOf, hlen]; exact hplen, by simp [dispatchStage_eq, ctrlOf, colOf, payloadOf, htrig]⟩

/-- With the break recorded BRKTRIG's condition fails, so BRKDUP is next (R93, R94). -/
theorem readBack_brkdup {p : List Byte} (hwf : (Instr.brkdup p).wf = true) (hsel : (Instr.brkdup p).selectedIn c = true) :
    ReadBack c (.brkdup p) := by
  have hlen : p.length = 2 := by simpa [Instr.wf] using hwf
  have hvalid : c.brkValid = true := hsel
  have htrig : triggers c = false := by simp [triggers, hvalid]
  have hplen : plen 0x30#8 0x88#8 = some 2 := by decide
  exact .inr ⟨by rw [payloadOf, hlen]; exact hplen, by simp [dispatchStage_eq, ctrlOf, colOf, payloadOf, htrig, hvalid]⟩

/-- A header with `nuc = 1` is not the break's. -/
theorem col_ne_brk {col : Byte} (hnuc : nucOf col = true) : col ≠ 0x88#8 := by
  rintro rfl
  exact absurd hnuc (by decide)

theorem readBack_gfx4 {res : BitVec 2} {rep : BitVec 4} {en : Bool} {creg : BitVec 2} {csel : ColorIndex} {p : List Byte}
    (hwf : (Instr.gfx4 res rep en creg csel p).wf = true) : ReadBack c (.gfx4 res rep en creg csel p) := by
  have hlen : p.length = cols res / 8 * 2 := by simpa [Instr.wf] using hwf
  have hnuc := nucOf_colByte en true creg csel
  have hplen := plen_graphics (ctrl := ctrlByte 0#2 res rep) hnuc (.inl (dispOf_ctrlByte 0#2 res rep))
  refine .inr ⟨by simpa [ctrlOf, colOf, payloadOf, hlen] using hplen, ?_⟩
  simp [dispatchStage_eq, ctrlOf, colOf, payloadOf, (ctrlByte_ne_text res rep).1, col_ne_brk hnuc]

theorem readBack_gfx16 {res : BitVec 2} {rep : BitVec 4} {en : Bool} {creg : BitVec 2} {csel : ColorIndex} {p : List Byte}
    (hwf : (Instr.gfx16 res rep en creg csel p).wf = true) : ReadBack c (.gfx16 res rep en creg csel p) := by
  have hlen : p.length = cols res / 8 * 2 := by simpa [Instr.wf] using hwf
  have hnuc := nucOf_colByte en true creg csel
  have hplen := plen_graphics (ctrl := ctrlByte 2#2 res rep) hnuc (.inr (dispOf_ctrlByte 2#2 res rep))
  refine .inr ⟨by simpa [ctrlOf, colOf, payloadOf, hlen] using hplen, ?_⟩
  simp [dispatchStage_eq, ctrlOf, colOf, payloadOf, (ctrlByte_ne_text res rep).2, col_ne_brk hnuc]

theorem readBack_skip00 {p : List Byte} (hwf : (Instr.skip00 p).wf = true) : ReadBack c (.skip00 p) := by
  have hlen : p.length = 2 := by simpa [Instr.wf] using hwf
  have hnuc : nucOf 0x00#8 = false := by decide
  have hplen : plen 0x00#8 0x00#8 = some 2 := by decide
  exact .inr ⟨by rw [payloadOf, hlen]; exact hplen, by simp [dispatchStage_eq, ctrlOf, colOf, payloadOf, hnuc]⟩

theorem readBack_skipff {p : List Byte} (hwf : (Instr.skipff p).wf = true) : ReadBack c (.skipff p) := by
  have hlen : p.length = 132 := by simpa [Instr.wf] using hwf
  have hdisp : dispOf 0xFF#8 = 3#2 := by decide
  have hplen : plen 0xFF#8 0xFF#8 = some 132 := by decide
  exact .inr ⟨by rw [payloadOf, hlen]; exact hplen, by simp [dispatchStage_eq, ctrlOf, colOf, payloadOf, hdisp]⟩

theorem readBack_skipunit {ctrl col : Byte} (hwf : (Instr.skipunit ctrl col).wf = true)
    (hsel : (Instr.skipunit ctrl col).selectedIn c = true) : ReadBack c (.skipunit ctrl col) := by
  simp only [Instr.wf, Bool.and_eq_true, Bool.not_eq_true', bne_iff_ne, ne_eq] at hwf
  obtain ⟨⟨hnuc, htext⟩, hzero⟩ := hwf
  obtain ⟨htrig, hdup⟩ := (unclaimed_iff c ctrl col).1 hsel
  have h00 : ¬ (ctrl = 0x00#8 ∧ col = 0x00#8) := mt (headerWord_eq ctrl col 0x00#8 0x00#8).2 hzero
  have hff : ¬ (ctrl = 0xFF#8 ∧ col = 0xFF#8) := by
    rintro ⟨-, rfl⟩
    exact absurd hnuc (by decide)
  refine .inr ⟨plen_marker hnuc, ?_⟩
  simp [dispatchStage_eq, ctrlOf, colOf, payloadOf, htext, htrig, hdup, h00, hff, hnuc, zeroPair]

theorem readBack_unrec {ctrl col : Byte} {p : List Byte} (hwf : (Instr.unrec ctrl col p).wf = true)
    (hsel : (Instr.unrec ctrl col p).selectedIn c = true) : ReadBack c (.unrec ctrl col p) := by
  simp only [Instr.wf, hits_graphics, Bool.and_eq_true, Bool.not_eq_true', bne_iff_ne, ne_eq, beq_iff_eq,
    decide_eq_false_iff_not] at hwf
  obtain ⟨⟨⟨⟨⟨hlen, htext⟩, hgfx⟩, hzero⟩, hones⟩, hunit⟩ := hwf
  obtain ⟨htrig, hdup⟩ := (unclaimed_iff c ctrl col).1 hsel
  have hg4 : ¬ (dispOf ctrl = 0#2 ∧ nucOf col = true) := fun h => hgfx ⟨.inl h.1, h.2⟩
  have hg16 : ¬ (dispOf ctrl = 2#2 ∧ nucOf col = true) := fun h => hgfx ⟨.inr h.1, h.2⟩
  have h00 : ¬ (ctrl = 0x00#8 ∧ col = 0x00#8) := mt (headerWord_eq ctrl col 0x00#8 0x00#8).2 hzero
  have hff : ¬ (ctrl = 0xFF#8 ∧ col = 0xFF#8) := mt (headerWord_eq ctrl col 0xFF#8 0xFF#8).2 hones
  have hpair : ¬ (nucOf col = false ∧ zeroPair p = true) := fun h => by simp [h.1, h.2] at hunit
  refine .inr ⟨hlen, ?_⟩
  rw [dispatchStage_eq]
  exact (if_neg htext).trans <| (if_neg htrig).trans <| (if_neg hdup).trans <| (if_neg hg4).trans <| (if_neg hg16).trans <|
    (if_neg h00).trans <| (if_neg hff).trans <| if_neg hpair

end

/-- Settles O5: the map reads each of its rows back from the row's own header and payload. -/
theorem decodeOfEncode : Obligations.DecodeOfEncode := by
  intro c i rest hwf hsel henc
  refine decode_encode_of_readBack ?_ rest
  cases i with
  | unkmodeR0 ctrl col => exact readBack_unkmodeR0 hwf
  | unkmodeR1 ctrl col => exact readBack_unkmodeR1 hwf
  | unkmodeR2 ctrl col => exact readBack_unkmodeR2 hwf
  | textmark col p => exact readBack_textmark hwf
  | brktrig p => exact readBack_brktrig hwf hsel
  | brkdup p => exact readBack_brkdup hwf hsel
  | gfx4 res rep en creg csel p => exact readBack_gfx4 hwf
  | gfx16 res rep en creg csel p => exact readBack_gfx16 hwf
  | skip00 p => exact readBack_skip00 hwf
  | skipff p => exact readBack_skipff hwf
  | skipunit ctrl col => exact readBack_skipunit hwf hsel
  | unrec ctrl col p => exact readBack_unrec hwf hsel
  | encRow16 g => cases henc
  | encText t => cases henc

/-! ### The records of the encoder -/

/-- An instruction and the decoder's record behind it have the same bytes (R68). -/
theorem encode_decodedAs (i : Instr) : encode (decodedAs i) = encode i := by
  cases i <;> rfl

/-- The decoder's record behind an encoder record is one the map selects in every state, of the length its header announces. -/
theorem decodedAs_wf_selectedIn (c : DispatchCtx) {i : Instr} (henc : i.isEncoderRecord = true) :
    (decodedAs i).wf = true ∧ (decodedAs i).selectedIn c = true ∧ (decodedAs i).isEncoderRecord = false := by
  cases i with
  | encRow16 g => exact ⟨by simp [decodedAs, Instr.wf, rowChunk_length, cols], rfl, rfl⟩
  | encText t => exact ⟨by simp [decodedAs, Instr.wf, textLineChunk_length]; rfl, rfl, rfl⟩
  | _ => cases henc

/-- An encoder record is read as the decoder's record behind it (R68). -/
theorem decode_encode_encoderRecord (c : DispatchCtx) {i : Instr} (henc : i.isEncoderRecord = true) (rest : List Byte) :
    decode c (encode i ++ rest) = .ok (decodedAs i, rest) := by
  obtain ⟨hwf, hsel, hnot⟩ := decodedAs_wf_selectedIn c henc
  rw [← encode_decodedAs]
  exact decodeOfEncode c _ rest hwf hsel hnot

theorem encode_encRow16 (g : ImageRow) : encode (.encRow16 g) = rowChunk g := rfl

theorem encode_encText (t : List Byte) : encode (.encText t) = textLineChunk t := rfl

/-- Settles O8: the two chunks are the bytes of GFX16 and TEXTMARK records, which decode as such. -/
theorem encoderRecordsDecode : Obligations.EncoderRecordsDecode := by
  intro c g t rest
  refine ⟨?_, ?_, encode_encRow16 g, encode_encText t, ?_, ?_⟩
  · rw [encode_encRow16, rowChunk_length]
  · rw [encode_encText, textLineChunk_length]
  · exact decode_encode_encoderRecord c (i := .encRow16 g) rfl rest
  · exact decode_encode_encoderRecord c (i := .encText t) rfl rest

/-! ### Header fields and the payload length, on the bytes -/

/-- Settles O1: the fields are slices of the bytes; the topmost ones need no remainder, a byte being under 256. -/
theorem headerFieldsByPosition : Obligations.HeaderFieldsByPosition := by
  intro ctrl col
  have hctrl : ctrl.toNat < 256 := ctrl.isLt
  have hcol : col.toNat < 256 := col.isLt
  simp only [dispOf, resOf, repOf, enOf, nucOf, cregOf, cselOf, BitVec.extractLsb'_toNat, Nat.shiftRight_eq_div_pow,
    BitVec.getLsbD, Nat.toNat_testBit, true_and]
  omega

/-- `COLS` as a table (R56). -/
theorem cols_eq_getD (res : BitVec 2) : cols res = [88, 176, 352, 528].getD res.toNat 0 := by
  rcases bits2_cases res with rfl | rfl | rfl | rfl <;> rfl

/-- Settles O2: R60's cases, with each field replaced by its place in the byte. -/
theorem payloadLengthByHeader : Obligations.PayloadLengthByHeader := by
  intro ctrl col disp res nuc
  obtain ⟨hdisp, hres, -, -, hnuc, -, -⟩ := headerFieldsByPosition ctrl col
  have hnuc0 : nucOf col = false ↔ nuc = 0 := by
    rw [← Bool.toNat_eq_zero, hnuc]
  have hdispIs (v : BitVec 2) : dispOf ctrl = v ↔ disp = v.toNat := by
    rw [← BitVec.toNat_inj, hdisp]
  have hresIs (v : BitVec 2) : resOf ctrl = v ↔ res = v.toNat := by
    rw [← BitVec.toNat_inj, hres]
  simp only [plen, cols_eq_getD, hnuc0, hdispIs, hresIs, hres]
  rfl

/-! ### Words of the table -/

/-- Settles O3: in each decoder state the header and payload are the record of the row named, and the map selects that row. -/
theorem breakHeaderDispatch : Obligations.BreakHeaderDispatch := by
  intro c a b rest
  split
  case isTrue hvalid => exact decodeOfEncode c (.brkdup [a, b]) rest rfl hvalid rfl
  case isFalse hvalid =>
    split
    case isTrue hrows =>
      have htrig : triggers c = true := by simp [triggers, hrows, hvalid]
      exact decodeOfEncode c (.brktrig [a, b]) rest rfl htrig rfl
    case isFalse hrows =>
      have hclaim : (triggers c || c.brkValid) = false := by simp [triggers, hrows, hvalid]
      split
      case isTrue hzero =>
        obtain ⟨rfl, rfl⟩ := hzero
        exact decodeOfEncode c (.skipunit 0x30#8 0x88#8) rest rfl (by simp [Instr.selectedIn, hclaim]) rfl
      case isFalse hzero =>
        have hpair : zeroPair [a, b] = false := by simpa [zeroPair] using hzero
        have hwf : (Instr.unrec 0x30#8 0x88#8 [a, b]).wf = true := by
          simp only [Instr.wf, hpair, Bool.and_false]
          rfl
        exact decodeOfEncode c (.unrec 0x30#8 0x88#8 [a, b]) rest hwf (by simp [Instr.selectedIn, hclaim]) rfl

/-- A table word whose bytes begin with a record of the map decodes to that record. -/
theorem decodeTableWord_of_encode {nbits w : Nat} {i : Instr} (rest : List Byte) (hbytes : tableBytes nbits w = encode i ++ rest)
    (hwf : i.wf = true) (hsel : i.selectedIn (tableCtx nbits w) = true) (henc : i.isEncoderRecord = false) :
    decodeTableWord nbits w = some i := by
  rw [decodeTableWord, hbytes, decodeOfEncode _ i rest hwf hsel henc]

/-- The bytes of a header word of the table: the header, and 132 zero bytes. -/
theorem tableBytes_header {w : Nat} (h : w < 2 ^ 16) :
    tableBytes 16 w = BitVec.ofNat 8 (w / 256) :: BitVec.ofNat 8 w :: List.replicate 132 0x00#8 := by
  have hzero (k : Nat) : w >>> (16 + 8 * k) = 0 := by
    rw [Nat.shiftRight_add, Nat.shiftRight_eq_zero w 16 h, Nat.zero_shiftRight]
  rw [tableBytes, Nat.mod_eq_of_lt h, Nat.shiftRight_eq_div_pow]
  simp only [hzero, List.map_const', List.length_range]

/-- A header word of the table decodes to the row whose record is that header and the zero bytes its payload takes. -/
theorem decodeTableWord_header {w : Nat} {i : Instr} (unread : Nat) (h : w < 2 ^ 16)
    (hbytes : BitVec.ofNat 8 (w / 256) :: BitVec.ofNat 8 w :: List.replicate 132 0x00#8 = encode i ++ List.replicate unread 0x00#8)
    (hwf : i.wf = true) (hsel : i.selectedIn (tableCtx 16 w) = true) (henc : i.isEncoderRecord = false) :
    decodeTableWord 16 w = some i :=
  decodeTableWord_of_encode _ ((tableBytes_header h).trans hbytes) hwf hsel henc

/-- Settles O4: of the 132 zero bytes after each header the record takes its payload and leaves the rest unread. -/
theorem tableWordsDecode : Obligations.TableWordsDecode :=
  ⟨decodeTableWord_header 132 (by decide) rfl rfl rfl rfl,
    decodeTableWord_header 132 (by decide) rfl rfl rfl rfl,
    decodeTableWord_header 132 (by decide) rfl rfl rfl rfl,
    decodeTableWord_header 130 (by decide) rfl rfl rfl rfl,
    decodeTableWord_header 130 (by decide) rfl rfl rfl rfl,
    decodeTableWord_header 110 (by decide) rfl rfl rfl rfl,
    decodeTableWord_header 88 (by decide) rfl rfl rfl rfl,
    decodeTableWord_header 130 (by decide) rfl rfl rfl rfl,
    decodeTableWord_header 0 (by decide) rfl rfl rfl rfl,
    decodeTableWord_header 130 (by decide) rfl rfl rfl rfl,
    decodeTableWord_header 0 (by decide) rfl rfl rfl rfl⟩

end Sys2Proof.Machine
end

section
/-! The palette family. What a pass decodes does not depend on the palette (R81): the meanings, the record step and the loop commute
with changing it; then the requests of the host that read it, MAP (R76) and READOUT (R77, R79). -/

namespace Sys2Proof.Machine

/-! ### States that differ in the palette alone -/

/-- What two states alike but for the palette may differ in (R81): palette and mode, latched and supplied, and the answers given. -/
structure PaletteView where
  palette16 : Palette
  palMode : PalMode
  suppliedPalette : Palette
  suppliedMode : PalMode
  replies : List Reply

/-- `s` with the palettes, the modes and the answers of `v`. -/
def recolor (v : PaletteView) (s : State) : State :=
  { s with
    palette16 := v.palette16
    palMode := v.palMode
    inputs := { s.inputs with palette16 := v.suppliedPalette, palMode := v.suppliedMode }
    replies := v.replies }

/-- States alike but for the palette are one state seen through two views. -/
theorem alikeButPalette_iff {s s' : State} : alikeButPalette s s' ↔ ∃ v, s' = recolor v s := by
  constructor
  · intro h
    exact ⟨⟨s'.palette16, s'.palMode, s'.inputs.palette16, s'.inputs.palMode, s'.replies⟩, h.symm⟩
  · rintro ⟨v, rfl⟩
    rfl

/-! ### A pass is blind to the palette -/

/-- `m` neither reads nor writes what a view holds: it commutes with `recolor`, its stops too. -/
def PaletteBlind (m : State → Host.Outcome State Fault Refusal) : Prop :=
  ∀ v s, m (recolor v s) = andThen (m s) fun t => .next (recolor v t)

/-- The outcome of a TAKE, its next state seen through a view. -/
def TakeResult.recolor (v : PaletteView) : TakeResult → TakeResult
  | .taken b s => .taken b (Machine.recolor v s)
  | .short need have_ => .short need have_
  | .missing => .missing

/-- A TAKE consumes the same bytes whatever the palette (R84). -/
theorem takeBytes_recolor (n : Nat) (v : PaletteView) (s : State) : takeBytes n (recolor v s) = (takeBytes n s).recolor v := by
  have htail : (recolor v s).tail = s.tail := rfl
  have hread : memRead (recolor v s) (s.tail - n) n = memRead s (s.tail - n) n := rfl
  unfold takeBytes
  rw [htail, hread]
  split
  · rfl
  · cases memRead s (s.tail - n) n with
    | some b => rfl
    | none => rfl

theorem peekBytes_recolor (n : Nat) (v : PaletteView) (s : State) : peekBytes n (recolor v s) = peekBytes n s := rfl

theorem isBusy_recolor (v : PaletteView) (s : State) : isBusy (recolor v s) = isBusy s := rfl

theorem fits_recolor (v : PaletteView) (s : State) (bytes : List Byte) : fits (recolor v s) bytes = fits s bytes := rfl

theorem latchT0_recolor (v : PaletteView) (s : State) : latchT0 (recolor v s) = recolor v (latchT0 s) := rfl

theorem paletteBlind_unknownMode (ctrl col : Byte) : PaletteBlind (unknownMode ctrl col) := by
  intro v s
  unfold unknownMode
  rw [peekBytes_recolor]
  cases peekBytes Config.diagPeek s with
  | some diag => rfl
  | none => rfl

theorem paletteBlind_finishRow (ctrl col : Byte) (rep : BitVec 4) (row : Row) : PaletteBlind (finishRow ctrl col rep row) := by
  intro v s
  unfold finishRow
  split
  · rfl
  · rfl

/-- No meaning reads the palette (R81): the graphics rows read `CREG` and `PREVBG`, the events the header, `T0` and the payload. -/
theorem paletteBlind_exec (i : Instr) : PaletteBlind (exec i) := by
  intro v s
  cases i with
  | unkmodeR0 ctrl col => exact paletteBlind_unknownMode ctrl col v s
  | unkmodeR1 ctrl col => exact paletteBlind_unknownMode ctrl col v s
  | unkmodeR2 ctrl col => exact paletteBlind_unknownMode ctrl col v s
  | gfx4 res rep en creg csel p =>
    have hon : cregWriteOn en (recolor v s) = cregWriteOn en s := rfl
    simp only [exec, execGfx4, hon]
    cases mult res with
    | none => rfl
    | some m =>
      cases cregWriteOn en s with
      | true => exact paletteBlind_finishRow _ _ _ _ v (cregWrite creg csel s)
      | false => exact paletteBlind_finishRow _ _ _ _ v s
  | gfx16 res rep en creg csel p =>
    simp only [exec, execGfx16]
    cases mult res with
    | none => rfl
    | some m => exact paletteBlind_finishRow _ _ _ _ v (setPrevBg (prevAfterRow s.prevBg p) s)
  | textmark col p => rfl
  | brktrig p => rfl
  | brkdup p => rfl
  | skip00 p => rfl
  | skipff p => rfl
  | skipunit ctrl col => rfl
  | unrec ctrl col p => rfl
  | encRow16 g => rfl
  | encText l => rfl

theorem paletteBlind_recordBody (ctrl col : Byte) : PaletteBlind (recordBody ctrl col) := by
  intro v s
  unfold recordBody
  cases plen ctrl col with
  | none => exact paletteBlind_exec _ v s
  | some n =>
    simp only [takeBytes_recolor]
    cases takeBytes n s with
    | taken b s1 => exact paletteBlind_exec _ v s1
    | short need have_ => rfl
    | missing => rfl

theorem paletteBlind_recordColor (ctrl : Byte) : PaletteBlind (recordColor ctrl) := by
  intro v s
  unfold recordColor
  rw [takeBytes_recolor]
  cases takeBytes 1 s with
  | taken b s1 => exact paletteBlind_recordBody _ _ v s1
  | short need have_ => rfl
  | missing => rfl

theorem paletteBlind_recordStep : PaletteBlind recordStep := by
  intro v s
  unfold recordStep
  rw [latchT0_recolor, takeBytes_recolor]
  cases takeBytes 1 (latchT0 s) with
  | taken b s1 => exact paletteBlind_recordColor _ v s1
  | short need have_ => rfl
  | missing => rfl

/-- STEP is blind: its guards read `STATUS`, `T` and `ROWS` (R106), FINISH the break and the rows (R107). -/
theorem paletteBlind_driverStep : PaletteBlind driverStep := by
  intro v s
  have hstatus : (recolor v s).status = s.status := rfl
  have hover : passOver (recolor v s) = passOver s := rfl
  unfold driverStep
  rw [hstatus, hover]
  cases s.status with
  | idle => rfl
  | done => rfl
  | fault => rfl
  | running =>
    cases passOver s with
    | true => rfl
    | false => exact paletteBlind_recordStep v s

/-- One blind part after another is blind. -/
theorem PaletteBlind.andThen {m f : State → Host.Outcome State Fault Refusal} (hm : PaletteBlind m) (hf : PaletteBlind f) :
    PaletteBlind fun s => Machine.andThen (m s) f := by
  intro v s
  simp only [hm v s]
  cases m s with
  | next t => exact hf v t
  | fault r => rfl
  | refused r => rfl

/-- The loop of RUN is blind (R108). -/
theorem paletteBlind_runSteps (k : Nat) : PaletteBlind (runSteps k) := by
  induction k with
  | zero => exact fun _ _ => rfl
  | succ k ih =>
    intro v s
    unfold runSteps
    rw [isBusy_recolor]
    cases isBusy s with
    | true => exact (paletteBlind_driverStep.andThen ih) v s
    | false => rfl

/-! ### The outcomes of READOUT -/

theorem opReadout_notDone {s : State} (h : s.status ≠ .done) : opReadout s = .next (answer (.refused .notDone) s) := by
  cases hstatus : s.status with
  | idle => simp only [opReadout, hstatus]
  | running => simp only [opReadout, hstatus]
  | fault => simp only [opReadout, hstatus]
  | done => exact absurd hstatus h

theorem opReadout_gray4 {s : State} (h : s.status = .done) (hmode : s.palMode = .gray4) :
    opReadout s = .next (answer (.refused .unmodelledConfig) s) := by
  simp only [opReadout, h, hmode]

theorem opReadout_true16 {s : State} (h : s.status = .done) (hmode : s.palMode = .true16) :
    opReadout s = .next (answer (.grid (outGrid s)) s) := by
  simp only [opReadout, h, hmode]

/-- READOUT reads palette and mode, and changes its answer alone (R77, R79). -/
theorem opReadout_answer (s : State) : ∃ r, opReadout s = .next (answer r s) := by
  by_cases h : s.status = .done
  · cases hmode : s.palMode with
    | gray4 => exact ⟨_, opReadout_gray4 h hmode⟩
    | true16 => exact ⟨_, opReadout_true16 h hmode⟩
  · exact ⟨_, opReadout_notDone h⟩

/-! ### A request leaves two states alike that were so -/

/-- If `o` is a next state, `o'` is one too, alike but for the palette. -/
def StaysAlike (o o' : Host.Outcome State Fault Refusal) : Prop :=
  ∀ t, o = .next t → ∃ t', o' = .next t' ∧ alikeButPalette t t'

theorem staysAlike_next {t t' : State} (h : alikeButPalette t t') : StaysAlike (.next t) (.next t') := by
  rintro _ ⟨⟩
  exact ⟨t', rfl, h⟩

/-- A stop asks nothing of the other state. -/
theorem staysAlike_fault (r : Fault) (o : Host.Outcome State Fault Refusal) : StaysAlike (.fault r) o := by
  rintro _ ⟨⟩

/-- What a blind part of a pass leaves, with `STATUS` answered, is alike but for the palette. -/
theorem PaletteBlind.staysAlike_answerStatus {m : State → Host.Outcome State Fault Refusal} (hm : PaletteBlind m) (v : PaletteView)
    (s : State) : StaysAlike (Machine.andThen (m s) answerStatus) (Machine.andThen (m (recolor v s)) answerStatus) := by
  rw [hm v s]
  cases m s with
  | next t => exact staysAlike_next rfl
  | fault r => exact staysAlike_fault r _
  | refused r => rintro _ ⟨⟩

section
variable (v : PaletteView) (s : State)

theorem staysAlike_opLoad (bytes : List Byte) : StaysAlike (opLoad bytes s) (opLoad bytes (recolor v s)) := by
  unfold opLoad
  rw [isBusy_recolor, fits_recolor]
  cases isBusy s with
  | true => exact staysAlike_next rfl
  | false =>
    cases fits s bytes with
    | true => exact staysAlike_next rfl
    | false => exact staysAlike_next rfl

theorem staysAlike_opTake (n : Nat) : StaysAlike (opTake n s) (opTake n (recolor v s)) := by
  unfold opTake
  rw [isBusy_recolor]
  cases isBusy s with
  | true => exact staysAlike_next rfl
  | false =>
    rw [takeBytes_recolor]
    cases takeBytes n s with
    | taken b s1 => exact staysAlike_next rfl
    | short need have_ => exact staysAlike_next rfl
    | missing => exact staysAlike_fault _ _

theorem staysAlike_opPeek (n : Nat) : StaysAlike (opPeek n s) (opPeek n (recolor v s)) := by
  unfold opPeek
  rw [peekBytes_recolor]
  cases peekBytes n s with
  | some b => exact staysAlike_next rfl
  | none => exact staysAlike_fault _ _

/-- BEGIN latches two palettes and makes the same pass otherwise (R105). -/
theorem staysAlike_opBegin (bytes : List Byte) : StaysAlike (opBegin bytes s) (opBegin bytes (recolor v s)) := by
  unfold opBegin
  rw [fits_recolor]
  cases fits s bytes with
  | true => exact staysAlike_next rfl
  | false => exact staysAlike_next rfl

/-- RUN is BEGIN, whose results are views of one state, and a blind loop (R108). -/
theorem staysAlike_opRun (bytes : List Byte) : StaysAlike (opRun bytes s) (opRun bytes (recolor v s)) := by
  unfold opRun
  rw [fits_recolor]
  cases fits s bytes with
  | true =>
    obtain ⟨w, hbegin⟩ : ∃ w, beginBlock bytes (recolor v s) = recolor w (beginBlock bytes s) := alikeButPalette_iff.mp rfl
    rw [hbegin]
    exact (paletteBlind_runSteps _).staysAlike_answerStatus w (beginBlock bytes s)
  | false => exact staysAlike_next rfl

theorem staysAlike_opReadout : StaysAlike (opReadout s) (opReadout (recolor v s)) := by
  obtain ⟨r, h⟩ := opReadout_answer s
  obtain ⟨r', h'⟩ := opReadout_answer (recolor v s)
  rw [h, h']
  exact staysAlike_next rfl

/-- ENCODE reads the encoder's configuration and its own grid (R111). -/
theorem staysAlike_opEncode (g : Grid) (ov : List Overlay) : StaysAlike (opEncode g ov s) (opEncode g ov (recolor v s)) := by
  have hvariant : (recolor v s).inputs.encVariant = s.inputs.encVariant := rfl
  simp only [opEncode, hvariant, emitItems_bytes]
  cases s.inputs.encVariant with
  | hifi => exact staysAlike_next rfl
  | fixedMask =>
    cases gridOk g with
    | true => exact staysAlike_next rfl
    | false => exact staysAlike_next rfl

/-- Every request of the host leaves two states alike but for the palette that were so (R66, R81). -/
theorem staysAlike_perform (op : Request) : StaysAlike (perform op s) (perform op (recolor v s)) := by
  cases op with
  | load bytes => exact staysAlike_opLoad v s bytes
  | take n => exact staysAlike_opTake v s n
  | peek n => exact staysAlike_opPeek v s n
  | beginPass bytes => exact staysAlike_opBegin v s bytes
  | step => exact paletteBlind_driverStep.staysAlike_answerStatus v s
  | run bytes => exact staysAlike_opRun v s bytes
  | readout => exact staysAlike_opReadout v s
  | encode g ov => exact staysAlike_opEncode v s g ov
  | reset => exact staysAlike_next rfl
  | remaining => exact staysAlike_next rfl
  | isEmpty => exact staysAlike_next rfl
  | map c => exact staysAlike_next rfl
  | supplyPalette p => exact staysAlike_next rfl
  | adjustPalette => exact staysAlike_next rfl
  | supplyPalMode m => exact staysAlike_next rfl
  | supplyEncoder enc pre post => exact staysAlike_next rfl

end

/-- Settles O27: the second state is a view of the first, with the same first request, which keeps them alike. -/
theorem paletteIndependence : Obligations.PaletteIndependence := by
  intro s s' t halike ht
  obtain ⟨v, rfl⟩ := alikeButPalette_iff.mp halike
  cases hq : s.pending with
  | nil =>
    have hq' : (recolor v s).pending = [] := hq
    simp only [step, hq] at ht
    cases ht
    simp only [step, hq']
    exact ⟨_, rfl, halike⟩
  | cons op q =>
    have hq' : (recolor v s).pending = op :: q := hq
    rw [step_perform hq] at ht
    rw [step_perform hq']
    exact staysAlike_perform v (setPending q s) op t ht

/-! ### What MAP and READOUT answer -/

/-- The palette's entry of a color index, as the list of entries has it (R75, R76). -/
theorem palette_getElem? (p : Palette) (c : ColorIndex) : p.toList[c.toNat]? = some (mapColor p c) := by
  simp [mapColor, Vector.get]

/-- Settles O47: MAP answers the entry on the queue's rest. -/
theorem mapReadsPalette : Obligations.MapReadsPalette := by
  intro s c q hq
  rw [step_perform hq]
  exact ⟨mapColor s.palette16 c, palette_getElem? _ c, rfl⟩

/-- Each row of `OUT` has the width of its row in `RB`, and its pixels are the palette's entries (R30). -/
theorem outGrid_row {s : State} {r : Nat} {row : Row} (hrow : s.rb[r]? = some row) :
    ∃ outRow, (outGrid s)[r]? = some outRow ∧ outRow.length = row.length ∧
      ∀ (x : Nat) (k : ColorIndex), row[x]? = some k → outRow[x]? = s.palette16.toList[k.toNat]? := by
  refine ⟨row.map (mapColor s.palette16), by simp [outGrid, hrow], List.length_map _, fun x k hk => ?_⟩
  rw [palette_getElem?, List.getElem?_map, hk, Option.map_some]

/-- Settles O46: the three outcomes of READOUT on the queue's rest, and the grid of the third row by row. -/
theorem readoutMapsRows : Obligations.ReadoutMapsRows := by
  intro s q hq
  rw [step_perform hq]
  refine ⟨fun h => opReadout_notDone h, fun h hmode => opReadout_gray4 h hmode, fun h hmode => ?_⟩
  exact ⟨outGrid s, List.length_map _, fun _ _ hrow => outGrid_row hrow, opReadout_true16 h hmode⟩

end Sys2Proof.Machine
end

section
/-! The cursor family. The last unread bytes as the one value that TAKE and PEEK read (R83, R84, R85); the outcomes of LOAD (R82),
of a host TAKE (R84, R88) and of PEEK (R85), each under its own condition; then the statements, on the queue's rest. -/

namespace Sys2Proof.Machine

section
variable {s : State}

theorem isBusy_iff : isBusy s = true ↔ s.status = .running := by
  simp [isBusy]

/-! ### The last unread bytes -/

theorem lastUnread_length (h : inputOk s) (n : Nat) : (lastUnread n s).length = min n s.tail := by
  obtain ⟨hdense, htail⟩ := h
  rw [lastUnread, List.length_drop, List.length_take, inputBytes_length hdense]
  omega

/-- The last unread bytes stand in memory order, and end where the cursor points (R83). -/
theorem lastUnread_getElem? (h : inputOk s) {n i : Nat} (hi : i < (lastUnread n s).length) :
    (lastUnread n s)[i]? = s.input.read (s.tail - (lastUnread n s).length + i) := by
  rw [lastUnread_length h] at hi ⊢
  have hstart : s.tail - n + i = s.tail - min n s.tail + i := by omega
  rw [lastUnread, List.getElem?_drop, List.getElem?_take_of_lt (by omega), hstart, Memory.read_of_dense h.1, inputBytes]

theorem takeBytes_lastUnread (h : inputOk s) {n : Nat} (hn : n ≤ s.tail) :
    takeBytes n s = .taken (lastUnread n s) (setTail (s.tail - n) s) := by
  have hcount : s.tail - (s.tail - n) = n := by omega
  rw [takeBytes_of_dense h.1 h.2, if_neg (by omega), lastUnread, List.drop_take, hcount]

theorem peekBytes_lastUnread (h : inputOk s) (n : Nat) : peekBytes n s = some (lastUnread n s) := by
  have hcount : s.tail - (s.tail - n) = min n s.tail := by omega
  rw [peekBytes_of_dense h.1 h.2, lastUnread, List.drop_take, hcount]

/-! ### The outcomes of the cursor's operations -/

theorem opLoad_busy (h : s.status = .running) (bytes : List Byte) :
    opLoad bytes s = .next (answer (.refused .busy) s) :=
  if_pos (isBusy_iff.mpr h)

theorem opLoad_tooLong {bytes : List Byte} (h : s.status ≠ .running) (hcap : ∃ cap, s.bufCap = some cap ∧ cap < bytes.length) :
    opLoad bytes s = .next (answer (.refused .tooLong) s) := by
  obtain ⟨cap, hsome, hlt⟩ := hcap
  have hfits : ¬ fits s bytes = true := fun hfits => absurd (fits_iff.mp hfits cap hsome) (by omega)
  rw [opLoad, if_neg (mt isBusy_iff.mp h), if_neg hfits]

theorem opLoad_loaded {bytes : List Byte} (h : s.status ≠ .running) (hcap : ∀ cap, s.bufCap = some cap → bytes.length ≤ cap) :
    opLoad bytes s = .next (answer .ack (loadInput bytes s)) := by
  rw [opLoad, if_neg (mt isBusy_iff.mp h), if_pos (fits_iff.mpr hcap)]

theorem opTake_busy (h : s.status = .running) (n : Nat) : opTake n s = .next (answer (.refused .busy) s) :=
  if_pos (isBusy_iff.mpr h)

/-- A short TAKE consumes nothing, whether or not the input can be read. -/
theorem opTake_short {n : Nat} (h : s.status ≠ .running) (hlt : s.tail < n) :
    opTake n s = .next (answer (.error (.shortBuffer n s.tail)) s) := by
  have htake : takeBytes n s = .short n s.tail := if_pos hlt
  rw [opTake, if_neg (mt isBusy_iff.mp h), htake]

theorem opTake_taken {n : Nat} (h : s.status ≠ .running) (hok : inputOk s) (hn : n ≤ s.tail) :
    opTake n s = .next (answer (.bytes (lastUnread n s)) (setTail (s.tail - n) s)) := by
  rw [opTake, if_neg (mt isBusy_iff.mp h), takeBytes_lastUnread hok hn]

theorem opPeek_answer (hok : inputOk s) (n : Nat) : opPeek n s = .next (answer (.bytes (lastUnread n s)) s) := by
  rw [opPeek, peekBytes_lastUnread hok]

end

/-! ### The statements -/

/-- Settles O42: the three outcomes of TAKE; taken are the last unread bytes, of which `n ≤ T` leaves `n`. -/
theorem takeReturnsLastBytes : Obligations.TakeReturnsLastBytes := by
  intro s n q hq
  rw [step_perform hq]
  refine ⟨fun h => opTake_busy (s := setPending q s) h n, fun h hlt => opTake_short h hlt, fun h hn hok => ?_⟩
  have hlen : (lastUnread n s).length = n := by rw [lastUnread_length hok]; omega
  refine ⟨lastUnread n s, hlen, fun i hi => ?_, opTake_taken h hok hn⟩
  rw [lastUnread_getElem? hok (by omega), hlen]

/-- Settles O43: PEEK answers the last unread bytes, REMAINING and ISEMPTY read `T` alone. -/
theorem cursorReadsChangeNothing : Obligations.CursorReadsChangeNothing := by
  intro s n q
  refine ⟨fun hq hok => ?_, fun hq => ?_, fun hq => ?_⟩
  · rw [step_perform hq]
    exact ⟨lastUnread n s, lastUnread_length hok n, fun _ hi => lastUnread_getElem? hok hi,
      opPeek_answer (s := setPending q s) hok n⟩
  · rw [step_perform hq]
    rfl
  · rw [step_perform hq]
    rfl

/-- Settles O41: the three outcomes of LOAD; what is loaded reads back as the bytes given. -/
theorem loadReplacesInput : Obligations.LoadReplacesInput := by
  intro s bytes q hq
  rw [step_perform hq]
  refine ⟨fun h => opLoad_busy (s := setPending q s) h bytes, fun h hcap => opLoad_tooLong h hcap, fun h hcap => ?_⟩
  exact ⟨Memory.ofBytes bytes, Memory.read_ofBytes bytes, Memory.ofBytes_wf bytes, opLoad_loaded h hcap⟩

end Sys2Proof.Machine
end

section
/-! The line-record family. What each record changes and what it leaves (R91 to R100), with the registers, pixels and carried
backgrounds of the two graphics kinds; then the record step of a running pass (R90, R101, R106). -/

namespace Sys2Proof.Machine

/-! ### Records that append no row -/

/-- Settles O31: the meaning is `setBreak`. -/
theorem breakTriggerRecordsRow : Obligations.BreakTriggerRecordsRow :=
  fun _ _ => rfl

/-- Settles O32: the meaning is `emit` of that one event. -/
theorem breakDuplicateOnlyLogs : Obligations.BreakDuplicateOnlyLogs :=
  fun _ _ => rfl

/-- Settles O33: each of the three meanings is the state it was given. -/
theorem benignSkipsChangeNothing : Obligations.BenignSkipsChangeNothing :=
  fun _ _ _ _ => ⟨rfl, rfl, rfl⟩

/-- Settles O34: the meaning is `emit` of that one event. -/
theorem unrecognizedLogsPayload : Obligations.UnrecognizedLogsPayload :=
  fun _ _ _ _ => rfl

/-- Settles O29: all three headers have the one meaning, which logs what PEEK answers. -/
theorem unknownModeLogsDiagnostic : Obligations.UnknownModeLogsDiagnostic := by
  intro ctrl col s i hi hok
  refine ⟨lastUnread_length hok 70, ?_⟩
  rcases hi with rfl | rfl | rfl
  · exact unknownMode_next hok ctrl col
  · exact unknownMode_next hok ctrl col
  · exact unknownMode_next hok ctrl col

theorem cellsOf_length (p : List Byte) : (cellsOf p).length = (p.length + 1) / 2 := by
  induction p using cellsOf.induct with
  | case1 => rfl
  | case2 c => simp [cellsOf]
  | case3 c a p ih =>
    simp only [cellsOf, List.length_cons, ih]
    omega

/-- Cell `k` is the payload byte at offset `2k` (R63, R92). -/
theorem cellsOf_getElem? (p : List Byte) (k : Nat) : (cellsOf p)[k]? = p[2 * k]? := by
  induction p using cellsOf.induct generalizing k with
  | case1 => rfl
  | case2 c =>
    cases k with
    | zero => rfl
    | succ k => simp [cellsOf, Nat.mul_add]
  | case3 c a p ih =>
    cases k with
    | zero => rfl
    | succ k => simpa [cellsOf, Nat.mul_add] using ih k

/-- Settles O30: the cells are `cellsOf` of the payload. -/
theorem textMarkerLogsEvenCells : Obligations.TextMarkerLogsEvenCells :=
  fun _ p _ => ⟨cellsOf p, cellsOf_length p, fun k _ => cellsOf_getElem? p k, rfl⟩

/-! ### The graphics records -/

/-- The control and color bytes of a graphics record as numbers (R55, R58). -/
theorem ctrlByte_res3 (rep : BitVec 4) : ctrlByte 0#2 3#2 rep = BitVec.ofNat 8 (0x30 + rep.toNat) ∧
    ctrlByte 2#2 3#2 rep = BitVec.ofNat 8 (0xB0 + rep.toNat) := by
  revert rep; decide

theorem colByte_nuc (en : Bool) (creg : BitVec 2) (csel : ColorIndex) :
    colByte en true creg csel = BitVec.ofNat 8 (128 * en.toNat + 64 + 16 * creg.toNat + csel.toNat) := by
  revert en creg csel; decide

/-- Settles O38: resolution 3 has no multiplier, so both meanings go to fault entry on the state they were given. -/
theorem graphicsAtRes3TakesFault : Obligations.GraphicsAtRes3TakesFault := by
  intro rep en creg csel p s
  obtain ⟨hctrl4, hctrl16⟩ := ctrlByte_res3 rep
  rw [← hctrl4, ← hctrl16, ← colByte_nuc]
  exact ⟨rfl, rfl⟩

/-- Resolutions 0, 1, 2 with their multipliers, and the payload length each asks for (R56, R60). -/
theorem mult_of_mem {res : BitVec 2} {m : Nat} (h : (res.toNat, m) ∈ [(0, 4), (1, 2), (2, 1)]) :
    mult res = some m ∧ 0 < m ∧ cols res / 8 * 2 * m = 88 := by
  rcases bits2_cases res with rfl | rfl | rfl | rfl
  · obtain rfl : m = 4 := by simpa using h
    decide
  · obtain rfl : m = 2 := by simpa using h
    decide
  · obtain rfl : m = 1 := by simpa using h
    decide
  · simp at h

theorem mult_of_ne_three {res : BitVec 2} (h : res ≠ 3#2) : ∃ m, 0 < m ∧ mult res = some m := by
  rcases bits2_cases res with rfl | rfl | rfl | rfl
  · exact ⟨4, by omega, rfl⟩
  · exact ⟨2, by omega, rfl⟩
  · exact ⟨1, by omega, rfl⟩
  · exact absurd rfl h

/-- The color registers a GFX4 record expands its pixels from: after its own write, if that happens (R95, R143, R144). -/
def gfx4Regs (en : Bool) (creg : BitVec 2) (csel : ColorIndex) (s : State) : Vector ColorIndex 4 :=
  if cregWriteOn en s then s.creg.set creg.toNat csel creg.isLt else s.creg

theorem gfx4Regs_get (en : Bool) (creg : BitVec 2) (csel : ColorIndex) (s : State) (i : Fin 4) :
    (gfx4Regs en creg csel s).get i =
      if en = true ∧ s.brkValid = false ∧ i.val = creg.toNat then csel else s.creg.get i := by
  unfold gfx4Regs
  cases hon : cregWriteOn en s with
  | true =>
    obtain ⟨hen, hbrk⟩ : en = true ∧ s.brkValid = false := by simpa [cregWriteOn] using hon
    simp [hen, hbrk, Vector.get_eq_getElem, Vector.getElem_set, eq_comm]
  | false =>
    have hoff : ¬ (en = true ∧ s.brkValid = false ∧ i.val = creg.toNat) := by
      rintro ⟨hen, hbrk, -⟩
      simp [cregWriteOn, hen, hbrk] at hon
    simp [hoff]

/-- GFX4 on a payload of its own length, at a resolution with a multiplier: its registers, then its rows (R95, R100). -/
theorem exec_gfx4 {res : BitVec 2} {rep : BitVec 4} {en : Bool} {creg : BitVec 2} {csel : ColorIndex} {p : List Byte} {m : Nat}
    (hm : mult res = some m) (hlen : p.length = cols res / 8 * 2) (s : State) :
    exec (.gfx4 res rep en creg csel p) s =
      .next (appendRows (gfx4Row (gfx4Regs en creg csel s) m p) (rep.toNat + 1) { s with creg := gfx4Regs en creg csel s }) := by
  have hwf : (Instr.gfx4 res rep en creg csel p).wf = true := by simpa [Instr.wf] using hlen
  have hwrite : (if cregWriteOn en s then cregWrite creg csel s else s) = { s with creg := gfx4Regs en creg csel s } := by
    unfold gfx4Regs
    split <;> rfl
  rw [exec, execGfx4_wf hwf, hm]
  simp only [hwrite]

/-- GFX16 on a payload of its own length, at a resolution with a multiplier: `PREVBG`, then its rows (R96, R100). -/
theorem exec_gfx16 {res : BitVec 2} {rep : BitVec 4} {en : Bool} {creg : BitVec 2} {csel : ColorIndex} {p : List Byte} {m : Nat}
    (hm : mult res = some m) (hlen : p.length = cols res / 8 * 2) (s : State) :
    exec (.gfx16 res rep en creg csel p) s =
      .next (appendRows (gfx16Row m s.prevBg p) (rep.toNat + 1) (setPrevBg (prevAfterRow s.prevBg p) s)) := by
  have hwf : (Instr.gfx16 res rep en creg csel p).wf = true := by simpa [Instr.wf] using hlen
  rw [exec, execGfx16_wf hwf, hm]

/-- Settles O35: the registers after the record's write, and its row pixel by pixel. -/
theorem gfx4WritesRegisterThenRow : Obligations.Gfx4WritesRegisterThenRow := by
  intro res rep en creg csel p s m hres hp
  obtain ⟨hm, hpos, hcols⟩ := mult_of_mem hres
  have hlen : p.length = cols res / 8 * 2 := Nat.eq_of_mul_eq_mul_right hpos (hp.trans hcols.symm)
  have hwidth : p.length / 2 * (8 * m) = 352 := width_of_mult hm hlen
  refine ⟨gfx4Regs en creg csel s, gfx4Row (gfx4Regs en creg csel s) m p, gfx4Regs_get en creg csel s, ?_, fun x hx => ?_,
    exec_gfx4 hm hlen s⟩
  · rw [gfx4Row_length, hwidth]
  · rw [gfx4Row_get _ m hpos p x (by omega), creg_fin]

/-- Settles O36: the carry computed pixel by pixel is the one of R143, at each pixel and at the row's end. -/
theorem gfx16CarriesBackground : Obligations.Gfx16CarriesBackground := by
  intro res rep en creg csel p s m hres hp
  obtain ⟨hm, hpos, hcols⟩ := mult_of_mem hres
  have hlen : p.length = cols res / 8 * 2 := Nat.eq_of_mul_eq_mul_right hpos (hp.trans hcols.symm)
  have hwidth : p.length / 2 * (8 * m) = 352 := width_of_mult hm hlen
  refine ⟨gfx16Row m s.prevBg p, prevAfterRow s.prevBg p, ?_, fun x hx => ?_, ?_, exec_gfx16 hm hlen s⟩
  · rw [gfx16Row_length, hwidth]
  · refine ⟨_, gfx16Row_get m hpos p s.prevBg x (by omega), fun hone => if_pos hone, fun hzero => ?_⟩
    rw [if_neg (by simp [hzero])]
    exact carries_carryFold s.prevBg p (x / m)
  · have hend : 352 / m = 8 * (p.length / 2) := Nat.div_eq_of_eq_mul_left hpos (by rw [← hwidth]; ring)
    rw [prevAfterRow_eq, hend]
    exact carries_carryFold s.prevBg p _

/-- A payload whose masks are all zero has no 1-bit. -/
theorem hiBit_of_zero_masks {p : List Byte} (h : ∀ k, 2 * k < p.length → p[2 * k]? = some 0#8) (j : Nat) : hiBit p j = false := by
  have hbyte : p.getD (2 * (j / 8)) 0#8 = 0#8 := by
    rw [List.getD_eq_getElem?_getD]
    by_cases hj : 2 * (j / 8) < p.length
    · rw [h _ hj, Option.getD_some]
    · rw [List.getElem?_eq_none (by omega), Option.getD_none]
  rw [hiBit, hbyte, BitVec.getLsbD_zero]

/-- Settles O37: with no 1-bit what is carried, and so every pixel, is `PREVBG`. -/
theorem gfx16ZeroMaskRepeatsBackground : Obligations.Gfx16ZeroMaskRepeatsBackground := by
  intro res rep en creg csel p s hres hlen hzero
  obtain ⟨m, hpos, hm⟩ := mult_of_ne_three hres
  have hwidth : p.length / 2 * (8 * m) = 352 := width_of_mult hm hlen
  have hcarry (j : Nat) : carryFold s.prevBg p j = s.prevBg := carryFold_zero s.prevBg p j fun i _ => hiBit_of_zero_masks hzero i
  have hrow : gfx16Row m s.prevBg p = List.replicate 352 s.prevBg := by
    rw [List.eq_replicate_iff, gfx16Row_length, hwidth]
    refine ⟨rfl, fun c hc => ?_⟩
    obtain ⟨x, hx, rfl⟩ := List.mem_iff_getElem.1 hc
    have hget := gfx16Row_get m hpos p s.prevBg x (by rwa [gfx16Row_length] at hx)
    rw [hiBit_of_zero_masks hzero, if_neg Bool.false_ne_true, hcarry, List.getElem?_eq_getElem hx] at hget
    exact Option.some.inj hget
  rw [exec_gfx16 hm hlen, hrow, prevAfterRow_eq, hcarry]
  rfl

/-! ### What a record can change -/

/-- The kinds that log an event (R91, R92, R94, R99). -/
def LogsEvent (i : Instr) : Prop :=
  (∃ ctrl col, i = .unkmodeR0 ctrl col ∨ i = .unkmodeR1 ctrl col ∨ i = .unkmodeR2 ctrl col) ∨
  (∃ col p, i = .textmark col p) ∨ (∃ p, i = .brkdup p) ∨ (∃ ctrl col p, i = .unrec ctrl col p)

/-- How a graphics meaning ends: with the width fault, or with rows appended (R98, R100). -/
def RowsOrFault (s t : State) : Prop :=
  (∃ c x y n k, t = enterFault c x y n k s) ∨ ∃ row k, t = appendRows row k s

/-- What the meaning of `i` makes of `s`, by the named updates of the state. -/
inductive RecordEffect (i : Instr) (s : State) : State → Prop
  | skipped : RecordEffect i s s
  | logged (e : Event) (h : LogsEvent i) : RecordEffect i s (emit e s)
  | broke (h : ∃ p, i = .brktrig p) : RecordEffect i s (setBreak s)
  | emitted (bytes : List Byte) (h : i.isEncoderRecord = true) : RecordEffect i s (addChunk bytes s)
  | drew {t : State} (h : ∃ res rep en creg csel p, i = .gfx4 res rep en creg csel p ∨ i = .gfx16 res rep en creg csel p)
      (ht : RowsOrFault s t) : RecordEffect i s t
  | wroteCreg {t : State} (r : BitVec 2) (v : ColorIndex)
      (h : ∃ res rep creg csel p, i = .gfx4 res rep true creg csel p ∧ s.brkValid = false)
      (ht : RowsOrFault (cregWrite r v s) t) : RecordEffect i s t
  | wrotePrevBg {t : State} (v : ColorIndex) (h : ∃ res rep en creg csel p, i = .gfx16 res rep en creg csel p)
      (ht : RowsOrFault (setPrevBg v s) t) : RecordEffect i s t

theorem exec_effect {i : Instr} {s t : State} (h : exec i s = .next t) : RecordEffect i s t := by
  cases i with
  | unkmodeR0 ctrl col => obtain ⟨diag, rfl⟩ := unknownMode_cases h; exact .logged _ (.inl ⟨ctrl, col, .inl rfl⟩)
  | unkmodeR1 ctrl col => obtain ⟨diag, rfl⟩ := unknownMode_cases h; exact .logged _ (.inl ⟨ctrl, col, .inr (.inl rfl)⟩)
  | unkmodeR2 ctrl col => obtain ⟨diag, rfl⟩ := unknownMode_cases h; exact .logged _ (.inl ⟨ctrl, col, .inr (.inr rfl)⟩)
  | textmark col p => cases h; exact .logged _ (.inr (.inl ⟨col, p, rfl⟩))
  | brktrig p => cases h; exact .broke ⟨p, rfl⟩
  | brkdup p => cases h; exact .logged _ (.inr (.inr (.inl ⟨p, rfl⟩)))
  | gfx4 res rep en creg csel p =>
    obtain ⟨s1, rfl | ⟨rfl, hbrk, rfl⟩, hend⟩ := execGfx4_cases h
    · exact .drew ⟨res, rep, en, creg, csel, p, .inl rfl⟩ hend
    · exact .wroteCreg creg csel ⟨res, rep, creg, csel, p, rfl, hbrk⟩ hend
  | gfx16 res rep en creg csel p =>
    obtain ⟨s1, rfl | ⟨v, rfl⟩, hend⟩ := execGfx16_cases h
    · exact .drew ⟨res, rep, en, creg, csel, p, .inr rfl⟩ hend
    · exact .wrotePrevBg v ⟨res, rep, en, creg, csel, p, rfl⟩ hend
  | skip00 p => cases h; exact .skipped
  | skipff p => cases h; exact .skipped
  | skipunit ctrl col => cases h; exact .skipped
  | unrec ctrl col p => cases h; exact .logged _ (.inr (.inr (.inr ⟨ctrl, col, p, rfl⟩)))
  | encRow16 g => cases h; exact .emitted _ rfl
  | encText l => cases h; exact .emitted _ rfl

/-- Rows appended or a fault taken leave the registers, the log and `C` alone (R98, R100, R101). -/
theorem RowsOrFault.frame {s t : State} (h : RowsOrFault s t) :
    t.creg = s.creg ∧ t.prevBg = s.prevBg ∧ t.brkValid = s.brkValid ∧ t.brkRow = s.brkRow ∧ t.ev = s.ev ∧ t.chunks = s.chunks := by
  rcases h with ⟨c, x, y, n, k, rfl⟩ | ⟨row, k, rfl⟩
  · exact ⟨rfl, rfl, rfl, rfl, rfl, rfl⟩
  · exact ⟨rfl, rfl, rfl, rfl, rfl, rfl⟩

/-- Settles O19: what no meaning touches is kept; the rest is read off each update. -/
theorem recordFrames : Obligations.RecordFrames := by
  intro i s t h
  obtain ⟨hkept, htail, hT0⟩ := exec_kept h
  suffices hchanged : _ ∧ _ ∧ _ ∧ _ ∧ _ ∧ _ ∧ _ by
    obtain ⟨hcreg, hprev, hbrk, hrows, hev, hgrow, hchunks⟩ := hchanged
    exact ⟨hcreg, hprev, hbrk, hrows, hev, hgrow, hchunks, hkept.input, hkept.len, htail, hT0, hkept.palette16, hkept.palMode,
      hkept.inputs, hkept.bufCap, hkept.encOut, hkept.draws, hkept.pending, hkept.replies⟩
  cases exec_effect h with
  | skipped => simp
  | logged e hi => exact ⟨by simp, by simp, by simp, by simp, fun _ => hi, .inr ⟨e, rfl⟩, by simp⟩
  | broke hi => exact ⟨by simp, by simp, fun _ => hi, by simp, by simp, .inl rfl, by simp⟩
  | emitted bytes hi => exact ⟨by simp, by simp, by simp, by simp, by simp, .inl rfl, fun _ => hi⟩
  | drew hi hend =>
    obtain ⟨hcreg, hprev, hbrk, hbrkRow, hev, hchunks⟩ := hend.frame
    exact ⟨by simp [hcreg], by simp [hprev], by simp [hbrk, hbrkRow], fun _ => hi, by simp [hev], .inl hev, by simp [hchunks]⟩
  | wroteCreg r v hi hend =>
    obtain ⟨-, hprev, hbrk, hbrkRow, hev, hchunks⟩ := hend.frame
    obtain ⟨res, rep, creg, csel, p, rfl, -⟩ := id hi
    exact ⟨fun _ => hi, by simp [hprev], by simp [hbrk, hbrkRow], fun _ => ⟨res, rep, true, creg, csel, p, .inl rfl⟩,
      by simp [hev], .inl hev, by simp [hchunks]⟩
  | wrotePrevBg v hi hend =>
    obtain ⟨hcreg, -, hbrk, hbrkRow, hev, hchunks⟩ := hend.frame
    obtain ⟨res, rep, en, creg, csel, p, rfl⟩ := id hi
    exact ⟨by simp [hcreg], fun _ => hi, by simp [hbrk, hbrkRow], fun _ => ⟨res, rep, en, creg, csel, p, .inr rfl⟩,
      by simp [hev], .inl hev, by simp [hchunks]⟩

/-! ### The record step of a running pass -/

theorem step_step {s : State} {q : List Request} (hq : s.pending = .step :: q) :
    step s = andThen (driverStep (setPending q s)) answerStatus :=
  step_perform hq

/-- At a record, STEP is the meaning of what the unread bytes decode to (R90, R106). -/
theorem driverStep_decoded {s : State} {i : Instr} {left : List Byte} (hok : inputOk s) (hat : atRecord s)
    (hd : decode s.ctx (unread s) = .ok (i, left)) : driverStep s = exec i (setTail left.length (latchT0 s)) := by
  rw [driverStep_atRecord hat, recordStep_spec hok hat.2.1, hd]

/-- Settles O9: the record step on the queue's rest, with `STATUS` answered. -/
theorem stepRunsDecodedRecord : Obligations.StepRunsDecodedRecord := by
  intro s q i left hq hok hat hd
  rw [step_step hq, driverStep_decoded (s := setPending q s) hok hat hd]
  rfl

/-- What a STEP at a record that goes on has done: a record step, and `STATUS` answered. -/
theorem step_atRecord_next {s t : State} {q : List Request} (hq : s.pending = .step :: q) (hat : atRecord s)
    (ht : step s = .next t) : ∃ u, recordStep (setPending q s) = .next u ∧ t = answer (.status u.status) u := by
  rw [step_step hq, driverStep_atRecord (s := setPending q s) hat] at ht
  obtain ⟨u, hu, hans⟩ := andThen_next ht
  cases hans
  exact ⟨u, hu, rfl⟩

/-- Settles O20: a record step takes its header's two bytes at least, or faults. -/
theorem recordStepLowersTail : Obligations.RecordStepLowersTail := by
  intro s t q hq _ hat ht
  obtain ⟨u, hu, rfl⟩ := step_atRecord_next hq hat ht
  rcases recordStep_progress hu with hfault | ⟨hsame, htail⟩
  · exact .inl hfault
  · exact .inr ⟨hsame.trans hat.1, htail⟩

/-- A well-formed record that brings a fault is a graphics one at res 3, and the fault is all it brings (R98, R101). -/
theorem exec_faults {i : Instr} {s t : State} (hwf : i.wf = true) (h : exec i s = .next t) (hs : s.status ≠ .fault)
    (ht : t.status = .fault) : ∃ ctrl col need have_, t = enterFault codeRowWidthMismatch ctrl col need have_ s := by
  cases i with
  | gfx4 res rep en creg csel p =>
    rw [exec, execGfx4_wf hwf] at h
    cases hm : mult res with
    | none =>
      rw [hm] at h
      cases h
      exact ⟨_, _, _, _, rfl⟩
    | some m =>
      rw [hm] at h
      cases h
      refine absurd ht ?_
      dsimp only [appendRows_status]
      split <;> exact hs
  | gfx16 res rep en creg csel p =>
    rw [exec, execGfx16_wf hwf] at h
    cases hm : mult res with
    | none =>
      rw [hm] at h
      cases h
      exact ⟨_, _, _, _, rfl⟩
    | some m =>
      rw [hm] at h
      cases h
      exact absurd ht hs
  | unkmodeR0 ctrl col => obtain ⟨diag, rfl⟩ := unknownMode_cases h; exact absurd ht hs
  | unkmodeR1 ctrl col => obtain ⟨diag, rfl⟩ := unknownMode_cases h; exact absurd ht hs
  | unkmodeR2 ctrl col => obtain ⟨diag, rfl⟩ := unknownMode_cases h; exact absurd ht hs
  | _ => cases h; exact absurd ht hs

/-- A record step that faults only moves `T`, latches `T0` and enters the fault, with code 1 or 3 (R101, R126). -/
theorem recordStep_faults {s t : State} (hok : inputOk s) (htail : 0 < s.tail) (h : recordStep s = .next t)
    (hs : s.status ≠ .fault) (ht : t.status = .fault) :
    ∃ n c ctrl col need have_, (c = codeShortBuffer ∨ c = codeRowWidthMismatch) ∧
      t = enterFault c ctrl col need have_ (setTail n (latchT0 s)) := by
  rw [recordStep_spec hok htail] at h
  cases hd : decode s.ctx (unread s) with
  | ok r =>
    obtain ⟨i, left⟩ := r
    rw [hd] at h
    obtain ⟨-, hwf, -, -⟩ := encodeOfDecode _ _ _ _ hd
    obtain ⟨ctrl, col, need, have_, rfl⟩ := exec_faults hwf h hs ht
    exact ⟨left.length, _, ctrl, col, need, have_, .inr rfl, rfl⟩
  | error e =>
    rw [hd] at h
    cases e with
    | noControl => cases h
    | noColor => cases h; exact ⟨0, _, _, _, _, _, .inl rfl, rfl⟩
    | shortPayload need have_ => cases h; exact ⟨s.tail - 2, _, _, _, _, _, .inl rfl, rfl⟩

/-- Settles O23: fault entry writes none of these registers, and takes `FAULT_T0` from the latched `T0`. -/
theorem faultingRecordLeavesRows : Obligations.FaultingRecordLeavesRows := by
  intro s t q hq hok hat ht hfault
  obtain ⟨u, hu, rfl⟩ := step_atRecord_next hq hat ht
  have hrun : (setPending q s).status ≠ .fault := by simp [hat.1]
  obtain ⟨n, c, ctrl, col, need, have_, hc, rfl⟩ := recordStep_faults (s := setPending q s) hok hat.2.1 hu hrun hfault
  simpa [codeShortBuffer, codeRowWidthMismatch] using hc

end Sys2Proof.Machine
end

section
/-! The round trip (R119). What a list of the encoder's items holds: its image rows, its text lines, its bytes. Then the decoder's side:
from a state whose unread bytes are an item's, one STEP reads that item, and RUN reads the items one after the other. -/

namespace Sys2Proof.Machine

/-! ### The items of an assembly (R115, R118) -/

/-- The image rows of an item. -/
def EncItem.imageRows : EncItem → List ImageRow
  | .row g => [g]
  | .text _ => []
  | .raw _ => []

/-- The number of text lines of an item. -/
def EncItem.lineCount : EncItem → Nat
  | .row _ => 0
  | .text _ => 1
  | .raw _ => 0

/-- The image rows of a list of items, in order. -/
def imageRowsOf (is : List EncItem) : List ImageRow := is.flatMap EncItem.imageRows

/-- The number of text lines of a list of items. -/
def lineCountOf (is : List EncItem) : Nat := (is.map EncItem.lineCount).sum

@[simp] theorem imageRowsOf_nil : imageRowsOf [] = [] := rfl

@[simp] theorem imageRowsOf_cons (i : EncItem) (is : List EncItem) : imageRowsOf (i :: is) = i.imageRows ++ imageRowsOf is := rfl

@[simp] theorem imageRowsOf_append (is js : List EncItem) : imageRowsOf (is ++ js) = imageRowsOf is ++ imageRowsOf js :=
  List.flatMap_append

@[simp] theorem lineCountOf_nil : lineCountOf [] = 0 := rfl

@[simp] theorem lineCountOf_cons (i : EncItem) (is : List EncItem) : lineCountOf (i :: is) = i.lineCount + lineCountOf is := rfl

@[simp] theorem lineCountOf_append (is js : List EncItem) : lineCountOf (is ++ js) = lineCountOf is + lineCountOf js := by
  simp [lineCountOf]

@[simp] theorem overlayLines_nil : overlayLines [] = 0 := rfl

@[simp] theorem overlayLines_cons (o : Overlay) (ov : List Overlay) :
    overlayLines (o :: ov) = o.more.length + 1 + overlayLines ov := rfl

theorem imageRowsOf_text (lines : List (List Byte)) : imageRowsOf (lines.map .text) = [] := by
  induction lines with
  | nil => rfl
  | cons t lines ih => simpa [EncItem.imageRows] using ih

theorem lineCountOf_text (lines : List (List Byte)) : lineCountOf (lines.map .text) = lines.length := by
  induction lines with
  | nil => rfl
  | cons t lines ih => simp [EncItem.lineCount, ih, Nat.add_comm]

section
variable (pre post : List Byte) (ov : List Overlay)

theorem blockItems_contents (o : Overlay) :
    imageRowsOf (blockItems pre post o) = [] ∧ lineCountOf (blockItems pre post o) = o.more.length + 1 := by
  simp [blockItems, EncItem.imageRows, EncItem.lineCount, imageRowsOf_text, lineCountOf_text, Nat.add_comm]

/-- Overlay blocks hold text lines only. -/
theorem blocksAt_contents (r : Nat) :
    imageRowsOf (blocksAt pre post ov r) = [] ∧
      lineCountOf (blocksAt pre post ov r) = overlayLines (ov.filter fun o => o.pos.val == r) := by
  unfold blocksAt
  induction ov.filter fun o => o.pos.val == r with
  | nil => exact ⟨rfl, rfl⟩
  | cons o blocks ih =>
    obtain ⟨hrows, hlines⟩ := blockItems_contents pre post o
    obtain ⟨ihrows, ihlines⟩ := ih
    simp [hrows, hlines, ihrows, ihlines]

/-- The lines of the blocks from position `r` on are those at `r` and those after: each block is in one of the two, or in neither. -/
theorem overlayLines_from (r n : Nat) :
    overlayLines (ov.filter fun o => decide (r ≤ o.pos.val ∧ o.pos.val ≤ r + (n + 1))) =
      overlayLines (ov.filter fun o => o.pos.val == r) +
        overlayLines (ov.filter fun o => decide (r + 1 ≤ o.pos.val ∧ o.pos.val ≤ r + 1 + n)) := by
  induction ov with
  | nil => rfl
  | cons o ov ih =>
    simp only [List.filter_cons, decide_eq_true_eq, beq_iff_eq]
    split_ifs <;> simp only [overlayLines_cons, ih] <;> omega

/-- The assembly from position `r` on holds the image rows given and the lines of the blocks up to the position after the last row. -/
theorem itemsFrom_contents (r : Nat) (g : Grid) :
    imageRowsOf (itemsFrom pre post ov r g) = g ∧
      lineCountOf (itemsFrom pre post ov r g) =
        overlayLines (ov.filter fun o => decide (r ≤ o.pos.val ∧ o.pos.val ≤ r + g.length)) := by
  induction g generalizing r with
  | nil =>
    obtain ⟨hrows, hlines⟩ := blocksAt_contents pre post ov r
    refine ⟨hrows, hlines.trans ?_⟩
    congr 2
    funext o
    rw [beq_eq_decide, decide_eq_decide, List.length_nil]
    omega
  | cons row g ih =>
    obtain ⟨hrows, hlines⟩ := blocksAt_contents pre post ov r
    obtain ⟨ihrows, ihlines⟩ := ih (r + 1)
    simp only [itemsFrom, imageRowsOf_append, imageRowsOf_cons, hrows, ihrows, EncItem.imageRows, lineCountOf_append,
      lineCountOf_cons, hlines, ihlines, EncItem.lineCount, List.length_cons, overlayLines_from]
    simp

/-- The whole assembly of a grid of 256 rows holds every line: no block stands past position 256. -/
theorem itemsFrom_lineCount {g : Grid} (hg : g.length = 256) : lineCountOf (itemsFrom pre post ov 0 g) = overlayLines ov := by
  obtain ⟨-, hlines⟩ := itemsFrom_contents pre post ov 0 g
  rw [hlines, List.filter_eq_self.2]
  intro o _
  have := o.pos.isLt
  simp only [hg, decide_eq_true_eq]
  omega

end

/-- No item is an opaque byte string with bytes in it. -/
def NoRawBytes (is : List EncItem) : Prop := ∀ bytes, .raw bytes ∈ is → bytes = []

theorem noRawBytes_itemsFrom (ov : List Overlay) (r : Nat) (g : Grid) : NoRawBytes (itemsFrom [] [] ov r g) := by
  have hblocks (r : Nat) : NoRawBytes (blocksAt [] [] ov r) := by
    intro bytes hmem
    obtain ⟨o, -, ho⟩ := List.mem_flatMap.1 hmem
    simpa [blockItems] using ho
  induction g generalizing r with
  | nil => exact hblocks r
  | cons row g ih =>
    intro bytes hmem
    rw [itemsFrom, List.mem_append, List.mem_cons] at hmem
    rcases hmem with hmem | hmem | hmem
    · exact hblocks r bytes hmem
    · cases hmem
    · exact ih (r + 1) bytes hmem

/-- 90 bytes for each image row, 134 for each text line (R113, R114). -/
theorem itemBytes_length {is : List EncItem} (hraw : NoRawBytes is) :
    (is.flatMap EncItem.bytes).length = 90 * (imageRowsOf is).length + 134 * lineCountOf is := by
  induction is with
  | nil => rfl
  | cons i is ih =>
    have hrest := ih fun bytes hmem => hraw bytes (List.mem_cons_of_mem i hmem)
    rw [List.flatMap_cons, List.length_append, hrest, imageRowsOf_cons, List.length_append, lineCountOf_cons]
    cases i with
    | row g => simp only [EncItem.bytes, rowChunk_length, EncItem.imageRows, EncItem.lineCount, List.length_singleton]; omega
    | text t => simp only [EncItem.bytes, textLineChunk_length, EncItem.imageRows, EncItem.lineCount, List.length_nil]; omega
    | raw bytes => simp [EncItem.bytes, EncItem.imageRows, EncItem.lineCount, hraw bytes (List.mem_cons_self ..)]

/-- ENCODE of an admitted grid: the items' bytes, delivered (R111, R118). -/
theorem opEncode_admitted {g : Grid} {ov : List Overlay} {s : State} (hvar : s.inputs.encVariant = .fixedMask) (hg : admitted g) :
    opEncode g ov s =
      .next (deliver (addChunk ((itemsFrom s.inputs.colortPre s.inputs.colortPost ov 0 g).flatMap EncItem.bytes) (clearChunks s))) := by
  rw [opEncode, hvar]
  simp only [(gridOk_iff g).2 hg, if_true, emitItems_bytes, andThen]

/-! ### The row that a RowChunk decodes to -/

/-- The decoded row shows each block's two quantized colors: the left four pixels its foreground, the right four its background. -/
def ShowsBlocks (g : ImageRow) (row : Row) : Prop :=
  row.length = 352 ∧ ∀ j k, j < 44 → k < 4 →
    row[8 * j + k]? = some (blockColor [g] 0 (8 * j)) ∧ row[8 * j + 4 + k]? = some (blockColor [g] 0 (8 * j + 4))

theorem blockColor_row {g : Grid} {r : Nat} {row : ImageRow} (hr : g[r]? = some row) (c : Nat) :
    blockColor [row] 0 c = blockColor g r c := by
  simp [blockColor, sampleSum12, sample, hr]

section
variable {p : List Byte} {j k : Nat}

/-- The mask 0xF0: a block's left four pixels are 1-bits, its right four 0-bits (R113). -/
theorem hiBit_encMask (h : p[2 * j]? = some 0xF0#8) (hk : k < 8) : hiBit p (8 * j + k) = decide (k < 4) := by
  have hbits : ∀ k, k < 8 → (0xF0#8).getLsbD (7 - k) = decide (k < 4) := by decide
  rw [hiBit, show (8 * j + k) / 8 = j by omega, show (8 * j + k) % 8 = k by omega, List.getD_eq_getElem?_getD, h,
    Option.getD_some, hbits k hk]

/-- The two nibbles of a pair's second byte are its colors (R63). -/
theorem pairColors {a b : ColorIndex} (h : p[2 * j + 1]? = some (BitVec.ofNat 8 (16 * a.toNat + b.toNat))) (hk : k < 8) :
    pairFg p (8 * j + k) = a ∧ pairBg p (8 * j + k) = b := by
  have ha := a.isLt
  have hb := b.isLt
  have hdiv : (8 * j + k) / 8 = j := by omega
  have hbyte : (16 * a.toNat + b.toNat) % 2 ^ 8 = 16 * a.toNat + b.toNat := by omega
  have hhi : (16 * a.toNat + b.toNat) / 16 = a.toNat := by omega
  have hlo : (16 * a.toNat + b.toNat) % 16 = b.toNat := by omega
  simp only [pairFg, pairBg, hdiv, List.getD_eq_getElem?_getD, h, Option.getD_some, BitVec.toNat_ofNat, hbyte, hhi, hlo,
    BitVec.ofNat_toNat, BitVec.setWidth_eq, and_self]

/-- Along the 0-bits of a block the background of its own last 1-bit is carried (R143). -/
theorem carryFold_encMask (prev : ColorIndex) {a b : ColorIndex} (hmask : p[2 * j]? = some 0xF0#8)
    (hpair : p[2 * j + 1]? = some (BitVec.ofNat 8 (16 * a.toNat + b.toNat))) (hk : k < 4) :
    carryFold prev p (8 * j + 4 + k) = b := by
  induction k with
  | zero =>
    have hone : hiBit p (8 * j + 3) = true := hiBit_encMask hmask (by omega)
    have hbg : pairBg p (8 * j + 3) = b := (pairColors hpair (by omega)).2
    rw [show 8 * j + 4 + 0 = 8 * j + 3 + 1 by omega, carryFold, if_pos hone, hbg]
  | succ k ih =>
    have hzero : hiBit p (8 * j + 4 + k) = false := by
      rw [Nat.add_assoc, hiBit_encMask hmask (by omega), decide_eq_false_iff_not]
      omega
    rw [← Nat.add_assoc, carryFold, hzero, if_neg Bool.false_ne_true, ih (by omega)]

end

/-- The GFX16 row of a RowChunk's payload shows the row's blocks, whatever background comes in (R119). -/
theorem showsBlocks_gfx16Row {g : ImageRow} (hw : g.length = 352) (hq : ∀ q ∈ g, q.length = 3) (prev : ColorIndex) :
    ShowsBlocks g (gfx16Row 1 prev ((rowChunk g).drop 2)) := by
  have hlen : ((rowChunk g).drop 2).length = 88 := by rw [List.length_drop, rowChunk_length]
  refine ⟨by rw [gfx16Row_length, hlen], fun j k hj hk => ?_⟩
  obtain ⟨hmask, hpair⟩ := rowChunk_get [g] 0 g rfl hw hq j hj
  rw [← List.getElem?_drop] at hmask
  rw [show 3 + 2 * j = 2 + (2 * j + 1) by omega, ← List.getElem?_drop] at hpair
  have hpixel (x : Nat) (hx : x < 352) := gfx16Row_get 1 Nat.one_pos ((rowChunk g).drop 2) prev x (by rw [hlen]; omega)
  constructor
  · rw [hpixel _ (by omega), Nat.div_one, hiBit_encMask hmask (by omega), (pairColors hpair (by omega)).1]
    simp [hk]
  · rw [hpixel _ (by omega), Nat.div_one, carryFold_encMask prev hmask hpair hk, Nat.add_assoc, hiBit_encMask hmask (by omega)]
    simp

/-! ### One STEP per item -/

/-- `t` is `s` after the items `is` have been read: their rows and their text events are appended, and the pass goes on unbroken. -/
structure ReadItems (is : List EncItem) (s t : State) : Prop where
  inputOk : inputOk t
  running : t.status = .running
  brkValid : t.brkValid = s.brkValid
  rows : t.rows = s.rows + (imageRowsOf is).length
  rb : ∃ drawn, t.rb = s.rb ++ drawn ∧ List.Forall₂ ShowsBlocks (imageRowsOf is) drawn
  ev : ∃ log, t.ev = s.ev ++ log ∧ log.length = lineCountOf is ∧ ∀ e ∈ log, ∃ t0 cells, e = .textObserved t0 cells

/-- Items without rows and lines are read by doing nothing. -/
theorem readItems_refl {is : List EncItem} {s : State} (hrows : imageRowsOf is = []) (hlines : lineCountOf is = 0)
    (hok : inputOk s) (hrun : s.status = .running) : ReadItems is s s := by
  refine ⟨hok, hrun, rfl, by simp [hrows], ⟨[], by simp, ?_⟩, ⟨[], by simp, hlines.symm, by simp⟩⟩
  rw [hrows]
  exact .nil

theorem ReadItems.cons {i : EncItem} {is : List EncItem} {s t u : State} (h : ReadItems [i] s t) (h' : ReadItems is t u) :
    ReadItems (i :: is) s u := by
  obtain ⟨drawn, hrb, hshows⟩ := h.rb
  obtain ⟨drawn', hrb', hshows'⟩ := h'.rb
  obtain ⟨log, hev, hlen, htext⟩ := h.ev
  obtain ⟨log', hev', hlen', htext'⟩ := h'.ev
  refine ⟨h'.inputOk, h'.running, h'.brkValid.trans h.brkValid, ?_, ⟨drawn ++ drawn', ?_, ?_⟩, ⟨log ++ log', ?_, ?_, ?_⟩⟩
  · rw [h'.rows, h.rows]
    simp
    omega
  · rw [hrb', hrb, List.append_assoc]
  · simpa using List.rel_append hshows hshows'
  · rw [hev', hev, List.append_assoc]
  · simpa [hlen'] using hlen
  · intro e he
    rcases List.mem_append.1 he with he | he
    · exact htext e he
    · exact htext' e he

/-- A record is read by one STEP: its bytes are gone from what is unread, and its meaning goes on from there (R90). -/
theorem driverStep_encoderRecord {i : Instr} {rest : List Byte} {s : State} (henc : i.isEncoderRecord = true) (hok : inputOk s)
    (hat : atRecord s) (hu : unread s = encode i ++ rest) :
    driverStep s = exec (decodedAs i) (setTail rest.length (latchT0 s)) ∧ inputOk (setTail rest.length (latchT0 s)) ∧
      unread (setTail rest.length (latchT0 s)) = rest ∧ rest.length + 2 ≤ s.tail := by
  have htail : s.tail = (encode i).length + rest.length := by rw [← unread_length hok, hu, List.length_append]
  have hd : decode s.ctx (unread s) = .ok (decodedAs i, rest) := by rw [hu, decode_encode_encoderRecord s.ctx henc]
  refine ⟨driverStep_decoded hok hat hd, kept_inputOk hok (kept_start (by omega)), ?_, ?_⟩
  · obtain ⟨_, -, -, hdrop⟩ := takeBytes_unread (s := latchT0 s) hok (n := (encode i).length) (by simp [htail])
    have hleft : (latchT0 s).tail - (encode i).length = rest.length := by simp [htail]
    have hread : unread (latchT0 s) = encode i ++ rest := hu
    rwa [hleft, hread, List.drop_left] at hdrop
  · rw [htail, encode, List.length_cons, List.length_cons]
    omega

/-- The step of a text line: one TEXT_OBSERVED, no row (R92). -/
theorem driverStep_textItem {t rest : List Byte} {s : State} (hok : inputOk s) (hat : atRecord s)
    (hu : unread s = textLineChunk t ++ rest) :
    ∃ u, driverStep s = .next u ∧ unread u = rest ∧ u.tail + 2 ≤ s.tail ∧ ReadItems [.text t] s u := by
  obtain ⟨hstep, hokRest, hrest, htail⟩ := driverStep_encoderRecord (i := .encText t) rfl hok hat hu
  refine ⟨_, hstep, hrest, htail, hokRest, hat.1, rfl, rfl, ⟨[], ?_, .nil⟩, ⟨_, rfl, rfl, ?_⟩⟩
  · exact (List.append_nil _).symm
  · intro e he
    exact ⟨_, _, List.mem_singleton.1 he⟩

/-- The step of an image row: one row that shows its blocks, no event (R96, R100). -/
theorem driverStep_rowItem {g : ImageRow} {rest : List Byte} {s : State} (hw : g.length = 352) (hq : ∀ q ∈ g, q.length = 3)
    (hok : inputOk s) (hat : atRecord s) (hu : unread s = rowChunk g ++ rest) :
    ∃ u, driverStep s = .next u ∧ unread u = rest ∧ u.tail + 2 ≤ s.tail ∧ ReadItems [.row g] s u := by
  obtain ⟨hstep, hokRest, hrest, htail⟩ := driverStep_encoderRecord (i := .encRow16 g) rfl hok hat hu
  have hlen : ((rowChunk g).drop 2).length = cols 2#2 / 8 * 2 := by rw [List.length_drop, rowChunk_length]; rfl
  rw [decodedAs, exec_gfx16 (m := 1) rfl hlen] at hstep
  have hone : min 1 (Config.rowCap - s.rows) = 1 := by have := hat.2.2; omega
  refine ⟨_, hstep, hrest, htail, hokRest, hat.1, rfl, ?_, ⟨[gfx16Row 1 s.prevBg ((rowChunk g).drop 2)], ?_, ?_⟩, ⟨[], ?_, rfl, ?_⟩⟩
  · simp [copies, hone, EncItem.imageRows]
  · simp [copies, hone]
  · exact .cons (showsBlocks_gfx16Row hw hq s.prevBg) .nil
  · exact (List.append_nil _).symm
  · simp

/-! ### RUN of the items -/

/-- A running pass below the row cap has exactly the bytes of `is` to read, image rows of the encoder's shape among them (R111). -/
structure AtItems (is : List EncItem) (s : State) : Prop where
  inputOk : inputOk s
  running : s.status = .running
  unread : unread s = is.flatMap EncItem.bytes
  rows : s.rows + (imageRowsOf is).length < Config.rowCap
  noRaw : NoRawBytes is
  shape : ∀ g ∈ imageRowsOf is, g.length = 352 ∧ ∀ q ∈ g, q.length = 3

section
variable {i : EncItem} {is : List EncItem} {s u : State} (h : AtItems (i :: is) s)
include h

theorem AtItems.atRecord (hbytes : 0 < i.bytes.length) : atRecord s := by
  refine ⟨h.running, ?_, by have := h.rows; omega⟩
  rw [← unread_length h.inputOk, h.unread, List.flatMap_cons, List.length_append]
  omega

/-- With the first item read, the pass is at the others. -/
theorem AtItems.rest (hread : ReadItems [i] s u) (hu : Machine.unread u = is.flatMap EncItem.bytes) : AtItems is u := by
  refine ⟨hread.inputOk, hread.running, hu, ?_, fun bytes hmem => h.noRaw bytes (List.mem_cons_of_mem i hmem), fun g hg => ?_⟩
  · have hrows := h.rows
    rw [hread.rows]
    simpa [Nat.add_assoc] using hrows
  · exact h.shape g (by rw [imageRowsOf_cons]; exact List.mem_append_right _ hg)

/-- The first item is read by one STEP, or has no bytes to read. -/
theorem AtItems.read_first : ∃ u, ReadItems [i] s u ∧ Machine.unread u = is.flatMap EncItem.bytes ∧
    (u = s ∨ driverStep s = .next u ∧ u.tail + 2 ≤ s.tail) := by
  have hu : Machine.unread s = i.bytes ++ is.flatMap EncItem.bytes := h.unread
  cases i with
  | row g =>
    obtain ⟨hw, hq⟩ := h.shape g (by simp [EncItem.imageRows])
    have hat : Machine.atRecord s := h.atRecord (by simp [EncItem.bytes, rowChunk_length])
    obtain ⟨u, hstep, hrest, htail, hread⟩ := driverStep_rowItem hw hq h.inputOk hat hu
    exact ⟨u, hread, hrest, .inr ⟨hstep, htail⟩⟩
  | text t =>
    have hat : Machine.atRecord s := h.atRecord (by simp [EncItem.bytes, textLineChunk_length])
    obtain ⟨u, hstep, hrest, htail, hread⟩ := driverStep_textItem h.inputOk hat hu
    exact ⟨u, hread, hrest, .inr ⟨hstep, htail⟩⟩
  | raw bytes =>
    have hnone : bytes = [] := h.noRaw bytes (List.mem_cons_self ..)
    subst hnone
    exact ⟨s, readItems_refl rfl rfl h.inputOk h.running, hu, .inl rfl⟩

end

theorem runSteps_succ {k : Nat} {s u : State} (hrun : s.status = .running) (h : driverStep s = .next u) :
    runSteps (k + 1) s = runSteps k u := by
  rw [runSteps, if_pos (isBusy_iff.2 hrun), h, andThen]

/-- Enough STEPs read all the items, and then end the pass (R106, R108, R109). -/
theorem runSteps_items {is : List EncItem} {k : Nat} {s : State} (h : AtItems is s) (hk : s.tail / 2 < k) :
    ∃ u, runSteps k s = .next (finish u) ∧ ReadItems is s u ∧ u.tail = 0 := by
  induction is generalizing k s with
  | nil =>
    obtain ⟨k, rfl⟩ : ∃ n, k = n + 1 := ⟨k - 1, by omega⟩
    have htail : s.tail = 0 := by rw [← unread_length h.inputOk, h.unread]; rfl
    have hstep : driverStep s = .next (finish s) := by simp [driverStep, h.running, passOver, htail]
    exact ⟨s, by rw [runSteps_succ h.running hstep, runSteps_stop (by simp)], readItems_refl rfl rfl h.inputOk h.running, htail⟩
  | cons i is ih =>
    obtain ⟨u, hread, hrest, rfl | ⟨hstep, htail⟩⟩ := h.read_first
    · obtain ⟨v, hv, hreadRest, hend⟩ := ih (h.rest hread hrest) hk
      exact ⟨v, hv, hread.cons hreadRest, hend⟩
    · obtain ⟨k, rfl⟩ : ∃ n, k = n + 1 := ⟨k - 1, by omega⟩
      obtain ⟨v, hv, hreadRest, hend⟩ := ih (h.rest hread hrest) (k := k) (by omega)
      exact ⟨v, by rw [runSteps_succ h.running hstep, hv], hread.cons hreadRest, hend⟩

/-- What BEGIN leaves unread: the input, backwards (R83). -/
theorem unread_beginBlock (bytes : List Byte) (s : State) : unread (beginBlock bytes s) = bytes.reverse := by
  simp [unread, inputBytes]

/-- RUN of what BEGIN finds to be items' bytes reads them all and ends DONE. -/
theorem opRun_items {is : List EncItem} {bytes : List Byte} {s : State} (hfits : fits s bytes = true)
    (h : AtItems is (beginBlock bytes s)) :
    ∃ u, opRun bytes s = .next (answer (.status .done) (finish u)) ∧ ReadItems is (beginBlock bytes s) u ∧ u.tail = 0 := by
  have hbound : (beginBlock bytes s).tail / 2 < stepBound bytes.length := by
    rw [beginBlock_tail, stepBound]
    omega
  obtain ⟨u, hu, hread, htail⟩ := runSteps_items h hbound
  exact ⟨u, by rw [opRun, if_pos hfits, hu]; rfl, hread, htail⟩

/-- ENCODE of an admitted grid with empty COLORT strings answers the items' bytes, backwards. -/
theorem step_encode_items {s : State} {g : Grid} {ov : List Overlay} {q : List Request} (hq : s.pending = .encode g ov :: q)
    (hg : admitted g) (hvar : s.inputs.encVariant = .fixedMask) (hpre : s.inputs.colortPre = []) (hpost : s.inputs.colortPost = []) :
    ∃ s1, step s = .next s1 ∧ s1.bufCap = s.bufCap ∧
      s1.replies = s.replies ++ [.bytes ((itemsFrom [] [] ov 0 g).flatMap EncItem.bytes).reverse] := by
  refine ⟨deliver (addChunk ((itemsFrom [] [] ov 0 g).flatMap EncItem.bytes) (clearChunks (setPending q s))), ?_, by simp [deliver],
    by simp [deliver]⟩
  rw [step_perform hq, perform, opEncode_admitted (s := setPending q s) hvar hg, setPending_inputs, hpre, hpost]

/-- A row that shows its image row's blocks shows the grid's. -/
theorem showsBlocks_grid {g : Grid} {r : Nat} {rb : List Row} (h : List.Forall₂ ShowsBlocks g rb) (hr : r < g.length) :
    ∃ row, rb[r]? = some row ∧ row.length = 352 ∧
      ∀ j k, j < 44 → k < 4 →
        row[8 * j + k]? = some (blockColor g r (8 * j)) ∧ row[8 * j + 4 + k]? = some (blockColor g r (8 * j + 4)) := by
  have hr' : r < rb.length := h.length_eq ▸ hr
  obtain ⟨hwidth, hblocks⟩ := List.Forall₂.get h hr hr'
  refine ⟨rb[r], List.getElem?_eq_getElem hr', hwidth, ?_⟩
  simpa only [List.get_eq_getElem, blockColor_row (List.getElem?_eq_getElem hr)] using hblocks

/-- Settles O51: the items that ENCODE assembles are read back one STEP each, and the last STEP finds nothing left. -/
theorem encodeThenRunRoundTrips : Obligations.EncodeThenRunRoundTrips := by
  intro s g ov hg hvar hpre hpost hcap hq
  obtain ⟨s1, hstep, hsame, hreplies⟩ := step_encode_items hq hg hvar hpre hpost
  obtain ⟨hheight, hshape⟩ := hg
  have hraw : NoRawBytes (itemsFrom [] [] ov 0 g) := noRawBytes_itemsFrom ov 0 g
  have hrowsOf : imageRowsOf (itemsFrom [] [] ov 0 g) = g := (itemsFrom_contents [] [] ov 0 g).1
  have hlines : lineCountOf (itemsFrom [] [] ov 0 g) = overlayLines ov := itemsFrom_lineCount [] [] ov hheight
  generalize itemsFrom [] [] ov 0 g = is at hreplies hraw hrowsOf hlines
  generalize he : (is.flatMap EncItem.bytes).reverse = e at hreplies
  have hlen : e.length = 23040 + 134 * overlayLines ov := by
    rw [← he, List.length_reverse, itemBytes_length hraw, hrowsOf, hlines, hheight]
  have hfits : fits (setPending [] s1) e = true :=
    fits_iff.2 fun cap hsome => hlen ▸ hcap cap (hsame ▸ hsome)
  have hat : AtItems is (beginBlock e (setPending [] s1)) :=
    ⟨inputOk_beginBlock e _, rfl, by rw [unread_beginBlock, ← he, List.reverse_reverse],
      by rw [beginBlock_rows, hrowsOf, hheight]; decide, hraw, by rwa [hrowsOf]⟩
  obtain ⟨u, hrun, hread, htail⟩ := opRun_items hfits hat
  have hbrk : u.brkValid = false := hread.brkValid
  obtain ⟨drawn, hrb, hshows⟩ := hread.rb
  obtain ⟨log, hev, hcount, htext⟩ := hread.ev
  rw [hrowsOf] at hshows
  rw [beginBlock_rb, List.nil_append] at hrb
  rw [beginBlock_ev, List.nil_append] at hev
  have hfinal : (answer (.status .done) (finish u)).rb = drawn := by simp [hbrk, hrb]
  have hlog : (answer (.status .done) (finish u)).ev = log := hev
  refine ⟨e, s1, _, hstep, hreplies, hrun, rfl, ?_, htail, hbrk, ?_, ?_, ?_, fun r hr => ?_⟩
  · exact hread.rows.trans (by simp [hrowsOf, hheight])
  · rw [hfinal, ← hshows.length_eq, hheight]
  · rw [hlog, hcount, hlines]
  · rw [hlog]
    exact htext
  · rw [hfinal]
    exact showsBlocks_grid hshows (by omega)

end Sys2Proof.Machine
end

section
/-! The driver family. RUN's loop never stops the machine, and from BEGIN it ends the pass within the bound of R109, in a state that
longer loops keep (R106, R108); STEP at and outside the loop test, with the rotation of FINISH (R107); the outcomes of BEGIN (R105)
and RESET (R103). -/

namespace Sys2Proof.Machine

/-! ### The loop of RUN goes on -/

/-- Where there is a byte, there is a control byte (R122). -/
theorem decode_noControl {c : DispatchCtx} {bytes : List Byte} (h : decode c bytes = .error .noControl) : bytes = [] := by
  match bytes with
  | [] => rfl
  | [_] => cases h
  | ctrl :: col :: rest =>
    simp only [decode] at h
    split at h
    · cases h
    · split at h <;> cases h

/-- A record step on a readable input comes to a next state: it executes a record or takes a fault (R90). -/
theorem recordStep_next {s : State} (hok : inputOk s) (htail : 0 < s.tail) : ∃ t, recordStep s = .next t := by
  have hlen : (unread s).length = s.tail := unread_length hok
  rw [recordStep_spec hok htail]
  cases hd : decode s.ctx (unread s) with
  | ok r =>
    obtain ⟨i, left⟩ := r
    obtain ⟨-, -, hleft⟩ := decode_ok hd
    exact exec_next (kept_inputOk hok (kept_start (hlen ▸ hleft))) i
  | error e =>
    cases e with
    | noControl =>
      rw [decode_noControl hd, List.length_nil] at hlen
      omega
    | noColor => exact ⟨_, rfl⟩
    | shortPayload need have_ => exact ⟨_, rfl⟩

/-- Outside a running pass STEP does nothing (R106). -/
theorem driverStep_stopped {s : State} (h : s.status ≠ .running) : driverStep s = .next s := by
  cases hs : s.status with
  | running => exact absurd hs h
  | idle => rw [driverStep, hs]
  | done => rw [driverStep, hs]
  | fault => rw [driverStep, hs]

/-- At the loop test, a pass that is over is finished (R106). -/
theorem driverStep_over {s : State} (hrun : s.status = .running) (hover : passOver s = true) : driverStep s = .next (finish s) := by
  simp [driverStep, hrun, hover]

theorem driverStep_next {s : State} (hok : inputOk s) : ∃ t, driverStep s = .next t := by
  by_cases hrun : s.status = .running
  · cases hover : passOver s with
    | true => exact ⟨_, driverStep_over hrun hover⟩
    | false =>
      have hstep : driverStep s = recordStep s := by simp [driverStep, hrun, hover]
      exact hstep ▸ recordStep_next hok (tail_pos_of_not_passOver hover)
  · exact ⟨s, driverStep_stopped hrun⟩

/-- The loop never stops the machine: each STEP leaves the input readable for the next. -/
theorem runSteps_next {s : State} (hok : inputOk s) (k : Nat) : ∃ t, runSteps k s = .next t := by
  induction k generalizing s with
  | zero => exact ⟨s, rfl⟩
  | succ k ih =>
    by_cases hrun : s.status = .running
    · obtain ⟨u, hu⟩ := driverStep_next hok
      rw [runSteps_succ hrun hu]
      exact ih (kept_inputOk hok (driverStep_kept hu))
    · exact ⟨s, runSteps_stop hrun _⟩

/-- A loop that has ended the pass has ended it for every longer loop (R108). -/
theorem runSteps_of_le {k j : Nat} {s t : State} (hkj : k ≤ j) (h : runSteps k s = .next t) (hstop : t.status ≠ .running) :
    runSteps j s = .next t := by
  induction k generalizing j s with
  | zero =>
    cases h
    exact runSteps_stop hstop j
  | succ k ih =>
    obtain ⟨j, rfl⟩ : ∃ n, j = n + 1 := ⟨j - 1, by omega⟩
    by_cases hrun : s.status = .running
    · rw [runSteps, if_pos (isBusy_iff.2 hrun)] at h
      obtain ⟨u, hu, hrest⟩ := andThen_next h
      rw [runSteps_succ hrun hu]
      exact ih (by omega) hrest
    · rwa [runSteps_stop hrun] at h ⊢

/-- `⌈L/2⌉ + 1` STEPs from BEGIN end the pass, in a state that more STEPs do not leave (R109). -/
theorem runSteps_beginBlock (bytes : List Byte) (s : State) :
    ∃ t, (t.status = .done ∨ t.status = .fault) ∧
      ∀ k, stepBound bytes.length ≤ k → runSteps k (beginBlock bytes s) = .next t := by
  obtain ⟨t, ht⟩ := runSteps_next (inputOk_beginBlock bytes s) (stepBound bytes.length)
  have hbound : (beginBlock bytes s).tail / 2 + 1 ≤ stepBound bytes.length := by
    rw [beginBlock_tail, stepBound]
    omega
  have hend : t.status = .done ∨ t.status = .fault := runSteps_ends rfl hbound ht
  have hstop : t.status ≠ .running := by rcases hend with h | h <;> simp [h]
  exact ⟨t, hend, fun k hk => runSteps_of_le hk ht hstop⟩

/-! ### An input that does not fit -/

theorem not_fits_of_cap_lt {s : State} {bytes : List Byte} (hcap : ∃ cap, s.bufCap = some cap ∧ cap < bytes.length) :
    ¬ fits s bytes = true := by
  obtain ⟨cap, hsome, hlt⟩ := hcap
  exact fun hfits => absurd (fits_iff.mp hfits cap hsome) (by omega)

/-- Settles O21: a RUN too long is refused before BEGIN; any other is its loop from BEGIN, whose bound is R109's. -/
theorem runEndsWithinBound : Obligations.RunEndsWithinBound := by
  intro s bytes q hq
  rw [step_perform hq, perform, opRun]
  refine ⟨fun hcap => if_neg (not_fits_of_cap_lt (s := setPending q s) hcap), fun hcap => ?_⟩
  obtain ⟨t, hend, hsteps⟩ := runSteps_beginBlock bytes (setPending q s)
  refine ⟨t, hend, hsteps, ?_⟩
  have hfits : fits (setPending q s) bytes = true := fits_iff.2 hcap
  rw [if_pos hfits, hsteps _ le_rfl]
  rfl

/-! ### STEP at and outside the loop test -/

/-- Settles O12: STEP does nothing, and `STATUS` is answered. -/
theorem stepOutsidePassHolds : Obligations.StepOutsidePassHolds := by
  intro s q hq hstop
  rw [step_step hq, driverStep_stopped (s := setPending q s) hstop]
  rfl

theorem passOver_iff {s : State} : passOver s = true ↔ s.tail = 0 ∨ 260 ≤ s.rows := by
  simp [passOver]

/-- FINISH rotates the rows left by `BRK_ROW` once the break is recorded, since then there are that many rows (R107). -/
theorem finish_rb_rotate {s : State} (h : s.Inv) : (finish s).rb = if s.brkValid = true then s.rb.rotate s.brkRow else s.rb := by
  rw [finish_rb]
  split
  · rename_i hbrk
    obtain ⟨hat, hrows⟩ := h.brkAt hbrk
    rw [List.rotate_eq_drop_append_take (by rw [← h.rowsEq, hat]; exact hrows)]
  · rfl

/-- Settles O11: the pass is over, so STEP is FINISH, and a rotation shows row `(BRK_ROW + k) mod ROWS` at `k`. -/
theorem finishRotatesRows : Obligations.FinishRotatesRows := by
  intro s q hq h hrun hover
  refine ⟨(finish s).rb, ?_, fun k hk => ?_, ?_⟩
  · rw [finish_rb_rotate h, h.rowsEq]
    split
    · exact List.length_rotate ..
    · rfl
  · rw [finish_rb_rotate h, h.rowsEq, Nat.add_comm]
    split
    · exact List.getElem?_rotate (h.rowsEq ▸ hk)
    · rfl
  · rw [step_step hq, driverStep_over (s := setPending q s) hrun (passOver_iff.2 hover)]
    rfl

/-! ### BEGIN and RESET -/

/-- `BRK_ROW` is drawn in 0..260 (R24, R35). -/
theorem brkRowUnset_le (n : Nat) : (Config.brkRowUnset n).val ≤ 260 :=
  Nat.le_of_lt_succ (Config.brkRowUnset n).isLt

/-- Settles O44: BEGIN refuses what does not fit; what it loads reads back as the bytes given. -/
theorem beginStartsPass : Obligations.BeginStartsPass := by
  intro s bytes q hq
  rw [step_perform hq, perform, opBegin]
  refine ⟨fun hcap => if_neg (not_fits_of_cap_lt (s := setPending q s) hcap), fun hcap => ?_⟩
  exact ⟨Memory.ofBytes bytes, _, Memory.read_ofBytes bytes, brkRowUnset_le s.draws, if_pos (fits_iff.2 hcap)⟩

/-- Settles O45: the effect of RESET, field by field, with its two free draws. -/
theorem resetClearsPass : Obligations.ResetClearsPass := by
  intro s q hq
  rw [step_perform hq]
  exact ⟨Config.prevBgAfterReset s.draws, _, brkRowUnset_le s.draws, rfl⟩

end Sys2Proof.Machine
end

section
/-! The encoder family. The quantizer's intervals (R112); the bytes that ENC.ROW16 and ENC.TEXT add to `C` (R113, R114); ENCODE's
outcomes, its assembly and the length of it (R111, R115, R117, R118). -/

namespace Sys2Proof.Machine

/-! ### The quantizer -/

/-- On the sums of 12 samples the clip never changes the quotient (R112). -/
theorem quant_eq_div {n : Nat} (hn : n ≤ 3060) : quant n = (n + 102) / 204 :=
  Nat.min_eq_right (by omega)

/-- Each color takes an interval of 204 sums around its own multiple of 204 (R112). -/
theorem quant_eq_iff {n i : Nat} (hn : n ≤ 3060) : quant n = i ↔ 204 * i ≤ n + 102 ∧ n + 102 < 204 * (i + 1) := by
  rw [quant_eq_div hn]
  omega

/-- Settles O49: the clip is idle, and each clause is one of the intervals of `quant_eq_iff`. -/
theorem quantizerIntervals : Obligations.QuantizerIntervals := by
  refine ⟨fun n hn => ⟨Nat.min_le_left .., quant_eq_div hn, ?_, ?_⟩, fun n i hn hlow hhigh => ?_, fun v hv => ?_, fun i hi => ?_⟩
  · rw [quant_eq_iff hn]
    omega
  · rw [quant_eq_iff hn]
    omega
  · rw [quant_eq_iff hn]
    omega
  · rw [quant_eq_div (by omega)]
    omega
  · rw [quant_eq_iff (by omega)]
    omega

/-! ### The encoder's records -/

/-- ENC.ROW16 appends its RowChunk to `C` and leaves the rest (R113, R118). -/
theorem exec_encRow16 (g : ImageRow) (s : State) : exec (.encRow16 g) s = .next { s with chunks := s.chunks ++ rowChunk g } := rfl

/-- ENC.TEXT appends its TextLineChunk to `C` and leaves the rest (R114, R115). -/
theorem exec_encText (t : List Byte) (s : State) : exec (.encText t) s = .next { s with chunks := s.chunks ++ textLineChunk t } := rfl

/-- Settles O39: the chunk is a header and one pair for each block. -/
theorem encRow16AddsRowChunk : Obligations.EncRow16AddsRowChunk := by
  intro g s hwidth hchannels
  exact ⟨rowChunk g, rowChunk_length g, rfl, rfl, fun j hj => rowChunk_get [g] 0 g rfl hwidth hchannels j hj, exec_encRow16 g s⟩

/-- The field is 4 spaces, then the line, then spaces (R114). -/
theorem lineField_getElem? (t : List Byte) {i : Nat} (hi : i < 66) :
    (lineField t)[i]? = some (if i < 4 then 0x20#8 else t.getD (i - 4) 0x20#8) := by
  have hcut : i - 4 - t.length < 66 := by omega
  rw [lineField, List.getElem?_take_of_lt hi, List.append_assoc, List.getElem?_append, List.length_replicate]
  by_cases hpad : i < 4
  · rw [if_pos hpad, if_pos hpad, List.getElem?_replicate_of_lt hpad]
  · rw [if_neg hpad, if_neg hpad, List.getElem?_append, List.getD_eq_getElem?_getD]
    by_cases hline : i - 4 < t.length
    · rw [if_pos hline, List.getElem?_eq_getElem hline, Option.getD_some]
    · rw [if_neg hline, List.getElem?_eq_none (l := t) (Nat.le_of_not_lt hline), List.getElem?_replicate_of_lt hcut, Option.getD_none]

/-- Each character is followed by a zero (R70). -/
theorem charPairs_getElem? (cs : List Byte) (i : Nat) :
    (cs.flatMap fun c => [c, 0x00#8])[2 * i]? = cs[i]? ∧
      (cs.flatMap fun c => [c, 0x00#8])[2 * i + 1]? = cs[i]?.map fun _ => 0x00#8 := by
  induction cs generalizing i with
  | nil => exact ⟨rfl, rfl⟩
  | cons c cs ih =>
    cases i with
    | zero => exact ⟨rfl, rfl⟩
    | succ i => exact ih i

/-- Settles O40: the chunk is a header and one pair for each character of the field. -/
theorem encTextAddsLineChunk : Obligations.EncTextAddsLineChunk := by
  intro t s
  refine ⟨textLineChunk t, textLineChunk_length t, rfl, rfl, fun i hi => ?_, exec_encText t s⟩
  obtain ⟨hchar, hzero⟩ := charPairs_getElem? (lineField t) i
  rw [lineField_getElem? t hi] at hchar hzero
  have hbody (k : Nat) : (textLineChunk t)[k + 2]? = ((lineField t).flatMap fun c => [c, 0x00#8])[k]? := rfl
  rw [Nat.add_comm 2, hbody, show 3 + 2 * i = 2 * i + 1 + 2 by omega, hbody]
  exact ⟨hchar, hzero⟩

/-! ### The assembly -/

/-- The bytes of the image row at a position; none past the last row (R118). -/
def rowBytesAt (g : Grid) (r : Nat) : List Byte := (g[r]?.map rowChunk).getD []

section
variable (pre post : List Byte) (ov : List Overlay)

/-- Emitted from position `r` on, each position's blocks stand before its image row (R118). -/
theorem itemsFrom_bytes (r : Nat) (g : Grid) :
    (itemsFrom pre post ov r g).flatMap EncItem.bytes =
      (List.range (g.length + 1)).flatMap fun k =>
        (ov.filter fun o => o.pos.val == r + k).flatMap (blockChunk pre post) ++ rowBytesAt g k := by
  induction g generalizing r with
  | nil => simp [itemsFrom, blocksAt_bytes, rowBytesAt]
  | cons row g ih =>
    have hrest (k : Nat) : rowBytesAt (row :: g) (k + 1) = rowBytesAt g k := rfl
    rw [itemsFrom, List.flatMap_append, blocksAt_bytes, List.flatMap_cons, ih, List.length_cons,
      List.range_succ_eq_map (n := g.length + 1), List.flatMap_cons, List.flatMap_map, List.append_assoc]
    simp only [hrest, Nat.succ_eq_add_one, Nat.add_assoc, Nat.add_comm 1]
    rfl

/-- What ENCODE emits for an admitted grid is `Assemble(RC, OV)` (R118). -/
theorem itemsFrom_assembled {g : Grid} (hg : g.length = 256) :
    (itemsFrom pre post ov 0 g).flatMap EncItem.bytes = assembled pre post ov g := by
  simp only [itemsFrom_bytes, hg, Nat.zero_add]
  rfl

/-- Taken position by position, the blocks are those of the list: a block stands at one position (R115). -/
theorem overlays_by_position_perm (n : Nat) :
    List.Perm ((List.range n).flatMap fun r => ov.filter fun o => o.pos.val == r) (ov.filter fun o => decide (o.pos.val < n)) := by
  induction n with
  | zero => simp
  | succ n ih =>
    have hsplit := List.filter_append_perm (fun o => decide (o.pos.val < n)) (ov.filter fun o => decide (o.pos.val < n + 1))
    have hbefore : ((ov.filter fun o => decide (o.pos.val < n + 1)).filter fun o => decide (o.pos.val < n)) =
        ov.filter fun o => decide (o.pos.val < n) := by
      rw [List.filter_filter]
      exact List.filter_congr fun o _ => by grind
    have hat : ((ov.filter fun o => decide (o.pos.val < n + 1)).filter fun o => !decide (o.pos.val < n)) =
        ov.filter fun o => o.pos.val == n := by
      rw [List.filter_filter]
      exact List.filter_congr fun o _ => by grind
    rw [hbefore, hat] at hsplit
    rw [List.range_succ, List.flatMap_append, List.flatMap_singleton]
    exact (ih.append_right _).trans hsplit

/-- Taken position by position, the image rows' bytes are the RowChunks of the grid. -/
theorem rowBytesAt_range (g : Grid) (n : Nat) : (List.range n).flatMap (rowBytesAt g) = (g.take n).flatMap rowChunk := by
  induction n with
  | zero => simp
  | succ n ih =>
    rw [List.range_succ, List.flatMap_append, ih, List.flatMap_singleton, List.take_add_one, List.flatMap_append]
    cases h : g[n]? <;> simp [rowBytesAt, h]

/-- The assembly holds every overlay block and every RowChunk once, in some order (R118). -/
theorem assembled_perm {g : Grid} (hg : g.length = 256) :
    List.Perm (assembled pre post ov g) (ov.flatMap (blockChunk pre post) ++ g.flatMap rowChunk) := by
  have hall : (ov.filter fun o => decide (o.pos.val < 257)) = ov :=
    List.filter_eq_self.2 fun o _ => decide_eq_true o.pos.isLt
  have hblocks := (overlays_by_position_perm ov 257).flatMap_right (blockChunk pre post)
  rw [hall, List.flatMap_assoc] at hblocks
  have hrows : (List.range 257).flatMap (rowBytesAt g) = g.flatMap rowChunk := by
    rw [rowBytesAt_range, List.take_of_length_le (by omega)]
  exact (List.flatMap_append_perm _ _ (rowBytesAt g)).symm.trans (hrows ▸ hblocks.append_right _)

/-- A BlockChunk is the two COLORT strings and 134 bytes for each line (R115). -/
theorem blockChunk_length (o : Overlay) :
    (blockChunk pre post o).length = pre.length + 134 * (o.more.length + 1) + post.length := by
  simp only [blockChunk, List.length_append, List.length_flatMap, textLineChunk_length, List.map_const', List.sum_replicate,
    List.length_cons, smul_eq_mul, Nat.mul_comm 134]

/-- 90 bytes for each of the 256 rows, and the blocks' own (R118). -/
theorem assembled_length {g : Grid} (hg : g.length = 256) :
    (assembled pre post ov g).length = 23040 + overlayBytes pre post ov := by
  have hrows : (g.flatMap rowChunk).length = 23040 := by
    simp only [List.length_flatMap, rowChunk_length, List.map_const', List.sum_replicate, hg, smul_eq_mul, Nat.reduceMul]
  have hblocks : (ov.flatMap (blockChunk pre post)).length = overlayBytes pre post ov := by
    simp only [List.length_flatMap, blockChunk_length, overlayBytes]
  rw [(assembled_perm pre post ov hg).length_eq, List.length_append, hrows, hblocks, Nat.add_comm]

end

/-! ### ENCODE -/

section
variable {g : Grid} {ov : List Overlay} {s : State}

/-- The higher-fidelity variant is refused, whatever the grid (R117). -/
theorem opEncode_hifi (hvar : s.inputs.encVariant = .hifi) : opEncode g ov s = .next (answer (.refused .unmodelledConfig) s) := by
  rw [opEncode, hvar]

/-- A grid of another shape is an error handed to the host (R111, R127). -/
theorem opEncode_shape (hvar : s.inputs.encVariant = .fixedMask) (hg : ¬ admitted g) :
    opEncode g ov s = .next (answer (.error (.encoderShape g.length)) s) := by
  rw [opEncode, hvar]
  exact if_neg (mt (gridOk_iff g).1 hg)

/-- An admitted grid's assembly is delivered from an empty `C` (R111, R118). -/
theorem opEncode_assembled (hvar : s.inputs.encVariant = .fixedMask) (hg : admitted g) :
    opEncode g ov s =
      .next (deliver (addChunk (assembled s.inputs.colortPre s.inputs.colortPost ov g) (clearChunks s))) := by
  rw [opEncode_admitted hvar hg, itemsFrom_assembled _ _ _ hg.1]

end

/-- Delivered from an empty `C`, bytes are written to `E` and answered backwards, and `C` is empty again (R49, R33). -/
theorem deliver_addChunk (c : List Byte) (s : State) :
    deliver (addChunk c (clearChunks s)) =
      { s with chunks := [], encOut := Memory.ofBytes c.reverse, replies := s.replies ++ [.bytes c.reverse] } := by
  simp only [deliver, answer, setOutput, addChunk, clearChunks, List.nil_append]

/-- Settles O48: the three outcomes of ENCODE; the bytes written to `E` read back as those answered. -/
theorem encodeAssemblesChunks : Obligations.EncodeAssemblesChunks := by
  intro s g ov q hq
  rw [step_perform hq, perform]
  refine ⟨fun hvar => opEncode_hifi (s := setPending q s) hvar, fun hvar hg => opEncode_shape (s := setPending q s) hvar hg,
    fun hvar hg => ?_⟩
  have hlen := assembled_length s.inputs.colortPre s.inputs.colortPost ov hg.1
  have hstep := opEncode_assembled (ov := ov) (s := setPending q s) hvar hg
  rw [deliver_addChunk, setPending_inputs] at hstep
  generalize assembled s.inputs.colortPre s.inputs.colortPost ov g = c at hlen hstep
  exact ⟨c.reverse, Memory.ofBytes c.reverse, List.reverse_reverse c, List.length_reverse.trans hlen, Memory.read_ofBytes c.reverse,
    hstep⟩

end Sys2Proof.Machine
end

section
/-! The exceptions family. The three ways in which bytes hold no record (R122), and the fault a STEP takes on them (R126); what a
request can change in FAULT (R27, R130); and that no request stops the machine on a readable input, since MemRead is then defined
wherever the cursor points (R41, R83, R84, R135). -/

namespace Sys2Proof.Machine

/-! ### Bytes that hold no record -/

/-- After both header bytes only the payload can be cut short, and only one whose length is known (R60, R122). -/
theorem decode_header_error_iff (c : DispatchCtx) (ctrl col : Byte) (rest : List Byte) (e : DecodeError) :
    decode c (ctrl :: col :: rest) = .error e ↔
      ∃ n, plen ctrl col = some n ∧ rest.length < n ∧ e = .shortPayload n rest.length := by
  cases hlen : plen ctrl col with
  | none => simp [decode_lengthStage hlen]
  | some n =>
    by_cases hshort : rest.length < n
    · simp [decode, hlen, hshort, eq_comm]
    · simp [decode, hlen, hshort]

/-- Settles O7: by how many of the header's bytes there are. -/
theorem decodeRejectsOnlyShortInput : Obligations.DecodeRejectsOnlyShortInput := by
  intro c bytes e
  match bytes with
  | [] => simp [decode, eq_comm]
  | [ctrl] => simp [decode, eq_comm]
  | ctrl :: col :: rest =>
    rw [decode_header_error_iff]
    constructor
    · rintro ⟨n, hlen, hshort, he⟩
      exact .inr (.inr ⟨ctrl, col, rest, n, rfl, hlen, hshort, he⟩)
    · rintro (⟨-, hbytes⟩ | ⟨-, ctrl', hbytes⟩ | ⟨ctrl', col', rest', n, hbytes, hlen, hshort, he⟩)
      · cases hbytes
      · cases hbytes
      · cases hbytes
        exact ⟨n, hlen, hshort, he⟩

/-- A STEP whose record step takes SHORT_BUFFER: the fault registers with `FAULT_T0` as latched, `T`, and the answer (R126). -/
theorem step_shortBuffer {s : State} {q : List Request} (hq : s.pending = .step :: q) (hat : atRecord s) {n need have_ : Nat}
    {ctrl col : Option Byte} (h : recordStep (setPending q s) =
      .next (enterFault codeShortBuffer ctrl col need have_ (setTail n (latchT0 (setPending q s))))) :
    step s = .next { s with
      pending := q, recT0 := s.tail, tail := n, status := .fault, faultCode := 1#4, faultT0 := some s.tail
      faultCtrl := ctrl, faultCol := col, faultNeed := some need, faultHave := some have_
      replies := s.replies ++ [.status .fault] } := by
  rw [step_step hq, driverStep_atRecord (s := setPending q s) hat, h]
  simp [andThen, answerStatus, answer, enterFault, setTail, latchT0, setPending, codeShortBuffer]

/-- Settles O10: the record step takes what there is of the header, and enters the fault with `T0` latched. -/
theorem shortRecordTakesFault : Obligations.ShortRecordTakesFault := by
  intro s q e hq hok hat hd
  have htail : (unread s).length = s.tail := unread_length hok
  have hpos : 0 < s.tail := hat.2.1
  have hrec := recordStep_spec (s := setPending q s) hok hpos
  have hsame : decode (setPending q s).ctx (unread (setPending q s)) = .error e := hd
  rw [hsame] at hrec
  rcases (decodeRejectsOnlyShortInput _ _ _).1 hd with ⟨-, hnil⟩ | ⟨rfl, ctrl, hone⟩ | ⟨ctrl, col, rest, n, htwo, -, hshort, rfl⟩
  -- no byte is unread
  · rw [hnil, List.length_nil] at htail
    omega
  -- the control byte alone
  · rw [hone, List.length_singleton] at htail
    have hcol : (unread s)[1]? = none := by rw [hone]; rfl
    have htaken : s.tail - 1 = 0 := by omega
    refine ⟨1, 0, 1, .inl ⟨rfl, htail.symm, rfl, rfl, rfl⟩, ?_⟩
    rw [hcol, htaken]
    exact step_shortBuffer hq hat hrec
  -- both header bytes
  · rw [htwo, List.length_cons, List.length_cons] at htail
    exact ⟨n, rest.length, 2, .inr ⟨rfl, by omega, by omega, hshort, rfl⟩, step_shortBuffer hq hat hrec⟩

/-! ### Requests in FAULT -/

/-- In FAULT, a request other than RESET, BEGIN and RUN writes at most the input, `T`, the supplied inputs, `C`, `E` and the answers:
STEP does nothing there (R106, R130). -/
theorem perform_in_fault {op : Request} {s t : State} (hfault : s.status = .fault) (hreset : op ≠ .reset)
    (hbegin : ∀ b, op ≠ .beginPass b) (hrun : ∀ b, op ≠ .run b) (ht : perform op s = .next t) :
    ∃ input len tail inputs chunks encOut replies,
      t = { s with
        input := input, len := len, tail := tail, inputs := inputs, chunks := chunks, encOut := encOut, replies := replies } := by
  rcases perform_cases ht with ⟨r, rfl⟩ | ⟨hop, -⟩ | ⟨b, -, -, rfl⟩ | ⟨n, r, -, -, -, rfl⟩ | ⟨b, hop, -⟩ | ⟨u, -, hu, rfl⟩ |
    ⟨b, u, hop, -, -⟩ | ⟨g, ov, c, -, rfl⟩ | ⟨f, rfl, -⟩
  · exact ⟨_, _, _, _, _, _, _, rfl⟩
  · exact absurd hop hreset
  -- LOAD and TAKE
  · exact ⟨_, _, _, _, _, _, _, rfl⟩
  · exact ⟨_, _, _, _, _, _, _, rfl⟩
  · exact absurd hop (hbegin b)
  -- STEP
  · rw [driverStep_stopped (by simp [hfault])] at hu
    cases hu
    exact ⟨_, _, _, _, _, _, _, rfl⟩
  · exact absurd hop (hrun b)
  -- ENCODE, and then the supply requests
  · rw [deliver_addChunk]
    exact ⟨_, _, _, _, _, _, _, rfl⟩
  · exact ⟨_, _, _, _, _, _, _, rfl⟩

/-- Settles O22: none of the registers named is among what such a request writes. -/
theorem faultStaysUntilResetOrBegin : Obligations.FaultStaysUntilResetOrBegin := by
  intro s t op q hq hfault hreset hbegin hrun ht
  rw [step_perform hq] at ht
  obtain ⟨_, _, _, _, _, _, _, rfl⟩ := perform_in_fault (s := setPending q s) hfault hreset hbegin hrun ht
  exact ⟨hfault, rfl, rfl, rfl, rfl, rfl, rfl, rfl, rfl, rfl, rfl, rfl, rfl, rfl⟩

/-! ### No request stops the machine -/

section
variable {s : State}

theorem opLoad_next (bytes : List Byte) : ∃ t, opLoad bytes s = .next t := by
  unfold opLoad
  split
  · exact ⟨_, rfl⟩
  · split <;> exact ⟨_, rfl⟩

/-- A host TAKE reads only bytes below `T`, which are there (R84). -/
theorem opTake_next (hok : inputOk s) (n : Nat) : ∃ t, opTake n s = .next t := by
  by_cases hrun : s.status = .running
  · exact ⟨_, opTake_busy hrun n⟩
  · rcases Nat.lt_or_ge s.tail n with hlt | hle
    · exact ⟨_, opTake_short hrun hlt⟩
    · exact ⟨_, opTake_taken hrun hok hle⟩

theorem opBegin_next (bytes : List Byte) : ∃ t, opBegin bytes s = .next t := by
  unfold opBegin
  split <;> exact ⟨_, rfl⟩

theorem opStep_next (hok : inputOk s) : ∃ t, opStep s = .next t := by
  obtain ⟨u, hu⟩ := driverStep_next hok
  rw [opStep, hu]
  exact ⟨_, rfl⟩

/-- RUN reads the input that its own BEGIN has loaded (R105, R108). -/
theorem opRun_next (bytes : List Byte) : ∃ t, opRun bytes s = .next t := by
  unfold opRun
  split
  · obtain ⟨u, hu⟩ := runSteps_next (inputOk_beginBlock bytes s) (stepBound bytes.length)
    rw [hu]
    exact ⟨_, rfl⟩
  · exact ⟨_, rfl⟩

theorem opEncode_next (g : Grid) (ov : List Overlay) : ∃ t, opEncode g ov s = .next t := by
  cases hvar : s.inputs.encVariant with
  | hifi => exact ⟨_, opEncode_hifi hvar⟩
  | fixedMask =>
    by_cases hg : admitted g
    · exact ⟨_, opEncode_assembled hvar hg⟩
    · exact ⟨_, opEncode_shape hvar hg⟩

/-- On an input the cursor can read, every request comes to a next state: refusals and host errors are answers (R88, R122, R128). -/
theorem perform_next (hok : inputOk s) (op : Request) : ∃ t, perform op s = .next t := by
  cases op with
  | reset => exact ⟨_, rfl⟩
  | load bytes => exact opLoad_next bytes
  | take n => exact opTake_next hok n
  | peek n => exact ⟨_, opPeek_answer hok n⟩
  | remaining => exact ⟨_, rfl⟩
  | isEmpty => exact ⟨_, rfl⟩
  | beginPass bytes => exact opBegin_next bytes
  | step => exact opStep_next hok
  | run bytes => exact opRun_next bytes
  | readout =>
    obtain ⟨r, h⟩ := opReadout_answer s
    exact ⟨_, h⟩
  | map c => exact ⟨_, rfl⟩
  | encode g ov => exact opEncode_next g ov
  | supplyPalette p => exact ⟨_, rfl⟩
  | adjustPalette => exact ⟨_, rfl⟩
  | supplyPalMode m => exact ⟨_, rfl⟩
  | supplyEncoder v pre post => exact ⟨_, rfl⟩

end

/-- Settles O13: the step of an empty queue. -/
theorem noRequestHolds : Obligations.NoRequestHolds := by
  intro s hq
  rw [step, hq]

/-- Settles O17: the invariant keeps the input readable, and then neither an empty queue nor any request stops the machine. -/
theorem stepGoesOnFromInvariant : Obligations.StepGoesOnFromInvariant := by
  intro s h
  cases hq : s.pending with
  | nil => exact ⟨s, noRequestHolds s hq⟩
  | cons op q =>
    rw [step_perform hq]
    exact perform_next (inv_setPending h q).inputOk op

end Sys2Proof.Machine
end

section
/-! The break-suppression hazard (R144). While `BRK_VALID` is 1 the opcode map does not select BRKTRIG and GFX4's register write is
off, so nothing a STEP can come to writes a color register or the recorded break. -/

namespace Sys2Proof.Machine

/-! ### A recorded break -/

theorem triggers_of_brkValid {c : DispatchCtx} (h : c.brkValid = true) : triggers c = false := by
  simp [triggers, h]

/-- With the break recorded, a selected record's meaning writes neither `CREG` nor the break: GFX4's write needs `BRK_VALID = 0`
(R95), and only BRKTRIG, which is not selected then (R65), writes the break. -/
theorem exec_keeps_break {i : Instr} {s t : State} (hbrk : s.brkValid = true) (hsel : i.selectedIn s.ctx = true)
    (h : exec i s = .next t) : t.creg = s.creg ∧ t.brkValid = s.brkValid ∧ t.brkRow = s.brkRow := by
  obtain ⟨hcreg, -, hbreak, -⟩ := recordFrames i s t h
  have noTrigger : ¬ ∃ p, i = .brktrig p := by
    rintro ⟨p, rfl⟩
    exact absurd hsel (Bool.eq_false_iff.1 (triggers_of_brkValid hbrk))
  have noWrite : ¬ ∃ res rep creg csel p, i = .gfx4 res rep true creg csel p ∧ s.brkValid = false := by
    rintro ⟨_, _, _, _, _, -, hclear⟩
    exact absurd hbrk (Bool.eq_false_iff.1 hclear)
  obtain ⟨hvalid, hrow⟩ := not_or.1 (mt hbreak noTrigger)
  exact ⟨not_not.1 (mt hcreg noWrite), not_not.1 hvalid, not_not.1 hrow⟩

/-- A record step runs a selected record or enters SHORT_BUFFER's fault; neither writes the color registers or a recorded break. -/
theorem recordStep_keeps_break {s t : State} (hbrk : s.brkValid = true) (h : recordStep s = .next t) :
    t.creg = s.creg ∧ t.brkValid = s.brkValid ∧ t.brkRow = s.brkRow := by
  rcases recordStep_cases h with ⟨n, c, x, y, need, have_, rfl, -, -⟩ | ⟨i, n, hexec, -, -, -, hsel⟩
  · exact ⟨rfl, rfl, rfl⟩
  · exact exec_keeps_break (s := setTail n (latchT0 s)) hbrk hsel hexec

/-- STEP with the break recorded: nothing outside a pass, FINISH at its end (which reads the break and keeps it, R107), or a record
step. -/
theorem driverStep_keeps_break {s t : State} (hbrk : s.brkValid = true) (h : driverStep s = .next t) :
    t.creg = s.creg ∧ t.brkValid = s.brkValid ∧ t.brkRow = s.brkRow := by
  rcases driverStep_cases h with ⟨-, rfl⟩ | ⟨-, -, rfl⟩ | ⟨-, -, hrec⟩
  · exact ⟨rfl, rfl, rfl⟩
  · exact ⟨finish_creg s, finish_brkValid s, finish_brkRow s⟩
  · exact recordStep_keeps_break hbrk hrec

/-- Settles O24: STEP keeps the registers and the break while it is recorded, and BRKTRIG's meaning only records it. -/
theorem breakSuppressesRegisterWrites : Obligations.BreakSuppressesRegisterWrites := by
  constructor
  · intro s t q hq hbrk ht
    rw [step_step hq] at ht
    obtain ⟨u, hu, hans⟩ := andThen_next ht
    cases hans
    obtain ⟨hcreg, hvalid, hrow⟩ := driverStep_keeps_break (s := setPending q s) hbrk hu
    exact ⟨hcreg, hvalid.trans hbrk, hrow⟩
  · intro p s t ht
    rw [breakTriggerRecordsRow] at ht
    cases ht
    exact ⟨rfl, rfl⟩

end Sys2Proof.Machine
end
